-- ==== Sys2Proof/Word.lean ====
section
/-! DEFINITION. The word type of the node's ports and the plainest arithmetic of 00_scope.md ("Arithmetic"). -/

namespace Sys2Proof

/-- One byte of a record, a frame or the image. -/
abbrev Byte := BitVec 8

/-- "ceil" of a quotient (00_scope.md): the smallest integer not less than it, for a divisor of at least 1. -/
def ceilDiv (n d : Nat) : Nat := (n + (d - 1)) / d

/-- "clamped to a..b" (00_scope.md). -/
def clampNat (a b n : Nat) : Nat := if n < a then a else if b < n then b else n

end Sys2Proof
end

