-- ==== Sys2Proof/Config.lean ====
section
/-! DEFINITION. What is fixed for every node of this part, and the free values of what the spec leaves open. -/

namespace Sys2Proof.Config

/-- Microseconds in a millisecond: timers are held to the 1 µs of R28. -/
def usPerMs : Nat := 1000

/-- Microseconds in the 10 ms unit of pitch, body time and move time (00_scope.md, "Units"). -/
def usPerTen : Nat := 10000

/-- R20: the join wait, 520 ms. -/
def joinWaitMs : Nat := 520

/-- R25: the grace of a peer row, 4 ms. -/
def graceMs : Nat := 4

/-- R37: the length of one lapse unit, 2 ms. -/
def lapseUnitMs : Nat := 2

/-- R37, R127, R133: the abort guard, 4 ms, the length of the RAMP path. -/
def guardMs : Nat := 4

/-- R37: the two lapse units of the guard. -/
def guardUnits : Nat := 2

/-- R78: the largest D + X of a USABLE schedule, in ms. -/
def maxProfileMs : Nat := 440

/-- R17: the failed attempts in a row that lead to SILENT. -/
def silentAfter : Nat := 16

/-- R144: the interval between two updates of the stage link, 0.5 ms, in µs. -/
def updateUs : Nat := 500

/-- R138: the updates of the RAMP path. -/
def rampUpdates : Nat := 8

/-- R146: the unanswered updates in a row that make a LINK fault. -/
def linkMissing : Nat := 3

/-- R50: the capacity of the Body Queue. -/
def queueMax : Nat := 8

/-- R105: the capacity of the deferred list. -/
def deferredMax : Nat := 8

/-- R171: the capacity of the report FIFO. -/
def fifoMax : Nat := 16

/-- R84: the bound at which the body time E saturates, in 10 ms units. -/
def bodyTimeMax : Nat := 65535

/-- R84, R110: the bound at which the move timer saturates, in 10 ms units. -/
def moveTimeMax : Nat := 262143

/-- R121: the largest current code. -/
def maxCode : Nat := 4095

/-- R160 (log 6): whether, at the n-th update at which a pulse ends and a LINK fault is found together, the LINK
fault is taken before the pulse's result. The rule says that either may be first, so nothing fixes it. -/
opaque linkFaultFirst : Nat → Bool

/-- R77, R193 (log 7): the value a SCHEDULE row shows for a D whose sum is negative, which the rules do not state
(only a schedule with 0 pulses has one, and it is UNUSABLE). -/
opaque negativeDuration : Int → Nat

/-- R161, R192 (log 16): what the node shifts out at a place after the port byte of a transaction of unknown kind,
which the rules do not state outside LOADING. -/
opaque unknownOut (kind : Byte) (place : Nat) : Byte

end Sys2Proof.Config
end

