-- ==== Sys2Proof/Syntax.lean ====
section
/-! DEFINITION. The commands and events of the node, one constructor for each row of spec/opcode_table.json, and
the zone bus frames they carry. The table gives its rows no operands: the operands are the fields the chapters give
the event (log 1). -/

namespace Sys2Proof

/-- The arbitration field of a zone bus frame (section 1.2): precedence 0..15, then sender id 0..31. -/
structure ArbField where
  prec : BitVec 4
  sender : BitVec 5
  deriving DecidableEq, Repr

/-- Kind and payload of a zone bus frame (R190), each field in the width sent. -/
inductive FrameBody where
  | halt (seconds : BitVec 8)
  | resume
  | body (serial : BitVec 24) (style : BitVec 4) (options : BitVec 8) (zoneSeq : BitVec 8)
  | exit (serial : BitVec 24)
  | derate (feeder : BitVec 2) (percent : BitVec 8)
  | claim (feeder : BitVec 2) (load : BitVec 6) (lapse : BitVec 8) (zoneSeq : BitVec 8) (spotId : BitVec 10)
  | release (feeder : BitVec 2) (spotId : BitVec 10)
  /-- Kinds 7..15, which have no payload: `k` stands for kind code 7 + k. -/
  | reserved (k : Fin 9)
  deriving DecidableEq, Repr

/-- A zone bus frame: arbitration field, kind and payload. -/
structure Frame where
  arb : ArbField
  body : FrameBody
  deriving DecidableEq, Repr

/-- The commands and events that change the node, in the order of spec/opcode_table.json. -/
inductive Instr where
  /-- POWER_ON (R22). -/
  | powerOn
  /-- BLOCK_READ (R181): the bytes read since the last event of the read, which complete a block of 256. -/
  | blockRead (bytes : List Byte)
  /-- HEADER_LENGTH_READ (R181): the first two fields of the header. -/
  | headerLengthRead (imageLength recordCount : BitVec 16)
  /-- IMAGE_READ_COMPLETE (R181, R182): the bytes read since the last event of the read, which complete the image. -/
  | imageReadComplete (bytes : List Byte)
  /-- JOIN_TIMER_EXPIRY (R20). -/
  | joinTimerExpiry
  /-- IDLE_POINT (R2). -/
  | idlePoint
  /-- BIT_ERROR (R7): `heard` is the arbitration field decoded with a good check after the error, if one was. -/
  | bitError (heard : Option ArbField)
  /-- OWN_FRAME_REJECTED (R8). -/
  | ownFrameRejected
  /-- OWN_FRAME_COMPLETED (R8): whether the receipt slot read dominant. -/
  | ownFrameCompleted (receipt : Bool)
  /-- INSERTION_VIOLATION (R4). -/
  | insertionViolation
  /-- FRAME_DISCARDED (R5): whether the check was good here (then another node drove the reject slot). -/
  | frameDiscarded (checkGood : Bool)
  /-- INVALID_FRAME (R10). -/
  | invalidFrame (f : Frame)
  /-- OWN_ID_FRAME (R11). -/
  | ownIdFrame (f : Frame)
  /-- HALT_FRAME (R65). -/
  | haltFrame (arb : ArbField) (seconds : BitVec 8)
  /-- RESUME_FRAME (R66). -/
  | resumeFrame (arb : ArbField)
  /-- BODY_FRAME (R52). -/
  | bodyFrame (arb : ArbField) (serial : BitVec 24) (style : BitVec 4) (options : BitVec 8) (zoneSeq : BitVec 8)
  /-- EXIT_FRAME (R56). -/
  | exitFrame (arb : ArbField) (serial : BitVec 24)
  /-- DERATE_FRAME (R29). -/
  | derateFrame (arb : ArbField) (feeder : BitVec 2) (percent : BitVec 8)
  /-- CLAIM_FRAME (R25). -/
  | claimFrame (arb : ArbField) (feeder : BitVec 2) (load : BitVec 6) (lapse : BitVec 8) (zoneSeq : BitVec 8)
      (spotId : BitVec 10)
  /-- RELEASE_FRAME (R27). -/
  | releaseFrame (arb : ArbField) (feeder : BitVec 2) (spotId : BitVec 10)
  /-- ROW_LAPSE (R28): the node id of the row whose lapse reaches 0. -/
  | rowLapse (node : BitVec 5)
  /-- CLAIM_WAIT_EXPIRY (R43). -/
  | claimWaitExpiry
  /-- CLAIM_LEAD_REACHED (R95). -/
  | claimLeadReached
  /-- HOLD_TIMER_EXPIRY (R67). -/
  | holdTimerExpiry
  /-- SQUEEZE_END (R96). -/
  | squeezeEnd
  /-- HOLD_END (R101). -/
  | holdEnd
  /-- ROBOT_LATE (R112). -/
  | robotLate
  /-- STAGE_UPDATE (R125). -/
  | stageUpdate
  /-- SAMPLE_FRAME (R145): the bytes received. -/
  | sampleFrame (bytes : List Byte)
  /-- GUN_CLOSED (R92): the spot id as written (R164). -/
  | gunClosed (spot : BitVec 16)
  /-- GUN_OPEN (R103). -/
  | gunOpen
  /-- TIP_DRESSED (R104). -/
  | tipDressed
  /-- MOTION_KIND_REFUSED (R164): motion kind and spot id bytes as written. -/
  | motionKindRefused (kind : Byte) (spot : BitVec 16)
  /-- ANNOUNCE_BODY (R166). -/
  | announceBody (serial : BitVec 24) (style : BitVec 4) (options : BitVec 8) (zoneSeq : BitVec 8)
  /-- ANNOUNCE_EXIT (R166). -/
  | announceExit (serial : BitVec 24)
  /-- ANNOUNCE_DERATE (R166). -/
  | announceDerate (feeder : BitVec 2) (percent : BitVec 8)
  /-- HALT_ZONE (R166). -/
  | haltZone (seconds : BitVec 8)
  /-- RESUME_ZONE (R166). -/
  | resumeZone
  /-- ABANDON_BODY (R167). -/
  | abandonBody
  /-- REJOIN (R21, R168). -/
  | rejoin
  /-- RESTART (R169). -/
  | restart
  /-- COMMAND_KIND_REFUSED (R165): command kind and the six field bytes as written. -/
  | commandKindRefused (kind : Byte) (fields : BitVec 48)
  /-- READ_REPORT (R172). -/
  | readReport
  /-- READ_STATUS (R176). -/
  | readStatus
  /-- SET_MASK (R175). -/
  | setMask (mask : BitVec 16)
  /-- CLEAR_FLAGS (R174). -/
  | clearFlags (set : BitVec 16)
  /-- SET_CURSOR (R177): table code and index as written. -/
  | setCursor (table : Byte) (index : BitVec 16)
  /-- READ_ROW (R178). -/
  | readRow
  /-- CUT_SHORT_TRANSACTION (R161): the complete bytes the robot controller clocked in. -/
  | cutShortTransaction (bytes : List Byte)
  /-- START_BIT (R2). -/
  | startBit
  /-- VALIDATION_END (R182). -/
  | validationEnd
  deriving DecidableEq, Repr

end Sys2Proof
end

