-- ==== Sys2Proof/Machine/State.lean ====
section
/-! DEFINITION. Every piece of state the spec gives the node, block by block, and its values after power-on and
RESTART. Plain data: every field is a number, a bit pattern, a name, an Option or a list of such. -/

namespace Sys2Proof.Machine

/-! ### Names the spec gives states, phases, outcomes and causes -/

/-- R19: the node operating state. -/
inductive NodeState where
  | loading | inert | joining | run | silent
  deriving DecidableEq, Repr

/-- R13: the three transmit slots. -/
inductive Slot where
  | claim | release | announce
  deriving DecidableEq, Repr

/-- R2: the line as the node treats it. -/
inductive Line where
  | busy | idle
  deriving DecidableEq, Repr

/-- R4, R5, R7: what the node last drove as a receiver. -/
inductive Drive where
  | recessive | receiptSlot | rejectSlot | disturbance
  deriving DecidableEq, Repr

/-- R33: the state of the node's one claim. -/
inductive ClaimState where
  | none | waiting | offered | granted | releasing
  deriving DecidableEq, Repr

/-- R84: the pass of the active body. -/
inductive Pass where
  | main | revisit
  deriving DecidableEq, Repr

/-- R84: where the Spot Sequencer is in the work of a spot. -/
inductive SsqState where
  | idle | awaitGun | squeeze | firing | hold
  deriving DecidableEq, Repr

/-- R85: the outcome of a plan entry. -/
inductive Outcome where
  | pending | deferred | good | suspect | aborted | missed
  deriving DecidableEq, Repr

/-- R85: the cause of an ABORTED, MISSED or DEFERRED entry. -/
inductive Cause where
  | none | claimTimeout | oversize | badSchedule | skipped | exited | deferFull | stage | halted | gunOpened | high
  | noCurrent | link
  deriving DecidableEq, Repr

/-- R154: the result of a judged pulse, and R157: the worst result of a spot. -/
inductive Worst where
  | ok | low | high | none
  deriving DecidableEq, Repr

/-- R151: the result recorded for a pulse: none yet, CUT, or judged. -/
inductive PulseResult where
  | noResult | cut | judged (r : Worst)
  deriving DecidableEq, Repr

/-- R72, R78: the mark of a program or a schedule. -/
inductive Mark where
  | absent | unusable | usable
  deriving DecidableEq, Repr

/-- R121: the phase of the current profile. -/
inductive Phase where
  | off | prestart | upslope | pulse | cool | downslope | aborting
  deriving DecidableEq, Repr

/-- R136: the two abort paths. -/
inductive AbortPath where
  | cut | ramp
  deriving DecidableEq, Repr

/-- R143: the state of the stage link. -/
inductive LinkState where
  | idle | active | fault
  deriving DecidableEq, Repr

/-- R180: the phase of the load progress. -/
inductive LoadPhase where
  | reading | validating | good | bad
  deriving DecidableEq, Repr

/-- R183: the reason of a bad load. -/
inductive LoadReason where
  | none | length | check | id | field
  deriving DecidableEq, Repr

/-- R1: the bit rates of the zone bus. -/
inductive BitRate where
  | kbit250 | kbit500 | kbit1000
  deriving DecidableEq, Repr

/-- R177: the tables of the inspection cursor. -/
inductive Table where
  | plt | bq | plan | deferred | pitch | learned | schedule
  deriving DecidableEq, Repr

/-- R173, R192: the sixteen event flags. -/
inductive Flag where
  | imageBad | scheduleBad | joinDone | busSilent | idClash | alone | bodyDropped | bodyDuplicate | bodyGap
  | spotMismatch | robotLate | mailboxOverrun | commandRefused | zoneHoldChange | tipDressDue | reportLost
  deriving DecidableEq, Repr

/-! ### The blocks -/

/-- The Zone Bus Controller (R13, R17, R19, R20, R22). -/
structure Zbc where
  node : NodeState
  line : Line
  /-- R2: ten consecutive recessive bits have been sampled since the node entered the line. -/
  synced : Bool
  claimSlot : Option Frame
  releaseSlot : Option Frame
  announceSlot : Option Frame
  /-- R16: the RELEASE on the wire is cancelled and is not offered again. -/
  releaseCancelled : Bool
  /-- R14, R15, R35: the slot chosen at an arbitration start, its start bit not yet sent. -/
  chosen : Option Slot
  /-- Time to that start bit, in µs. -/
  startIn : Nat
  /-- The slot whose frame is on the wire in the present attempt. -/
  wire : Option Slot
  failures : Nat
  /-- R20: the join timer in µs, none when stopped. -/
  joinTimer : Option Nat
  /-- R3, R4: the bits of the frame last begun, from the start bit through the check, inserted bits included. -/
  txBits : List Bool
  drive : Drive
  /-- R7: ID_CLASH has been raised for the frame that this node, SILENT since its bit error in it, still follows. -/
  clashTold : Bool
  deriving DecidableEq, Repr

/-- An occupied row of the Peer Load Table (R23). The lapse remaining is held in µs. -/
structure Row where
  feeder : Nat
  load : Nat
  lapse : Nat
  zoneSeq : Nat
  spotId : Nat
  prec : Nat
  deriving DecidableEq, Repr

/-- The Peer Load Table (R23, R24): 31 rows, the row of node id i at place i − 1, and the derate percent. -/
structure Plt where
  rows : List (Option Row)
  derate : Nat
  deriving DecidableEq, Repr

/-- R33: the standing slot request of the Spot Sequencer. -/
structure Request where
  planIdx : Nat
  spotId : Nat
  sched : Nat
  pass : Pass
  zoneSeq : Nat
  visit : Nat
  deriving DecidableEq, Repr

/-- R33: the pending claim record. -/
structure PendingClaim where
  feeder : Nat
  load : Nat
  lapse : Nat
  zoneSeq : Nat
  spotId : Nat
  prec : Nat
  boost : Nat
  deriving DecidableEq, Repr

/-- The Slot Request Unit (R33, R43, R44). -/
structure Sru where
  claim : ClaimState
  request : Option Request
  record : Option PendingClaim
  /-- R43: the claim-wait timer of the visit in µs, none when discarded or not yet started. -/
  waitTimer : Option Nat
  /-- R43: an expiry in OFFERED, held until the outcome is reported. -/
  expiryHeld : Bool
  withdrawn : Bool
  visit : Nat
  /-- R32, R33: the visit has made its first request. -/
  visitRequested : Bool
  deriving DecidableEq, Repr

/-- R50: a record of the Body Queue. -/
structure BodyRecord where
  serial : Nat
  style : Nat
  options : BitVec 8
  zoneSeq : Nat
  arrival : Nat
  exitTaken : Bool
  deriving DecidableEq, Repr

/-- The Body Queue (R50, R51, R60 to R64). Times are in µs. -/
structure Bq where
  queue : List BodyRecord
  arrivalNext : Nat
  lastSeq : Option Nat
  pitchTimer : Option Nat
  /-- R62: newest first. -/
  history : List Nat
  basePitch : Nat
  hold : Bool
  holdTimer : Option Nat
  deriving DecidableEq, Repr

/-- R71: an entry of the program directory, with its mark (R72). -/
structure Program where
  mark : Mark
  first : Nat
  count : Nat
  deriving DecidableEq, Repr

/-- R73: a spot record. -/
structure SpotRecord where
  spotId : Nat
  sched : Nat
  mask : BitVec 8
  expect : BitVec 8
  deriving DecidableEq, Repr

/-- R76: a schedule with its mark (R78), each field as the image codes it (R194). -/
structure Schedule where
  mark : Mark
  level : Nat
  load : Nat
  squeeze : Nat
  upslope : Nat
  shape : Nat
  pulses : Nat
  pulse : Nat
  cool : Nat
  downslope : Nat
  endPercent : Nat
  hold : Nat
  windowLow : Nat
  windowHigh : Nat
  blank : Nat
  action : Nat
  retry : Nat
  deriving DecidableEq, Repr

/-- R80: a stepper band. -/
structure Band where
  threshold : Nat
  boost : Nat
  deriving DecidableEq, Repr

/-- The Program Store (section 4.1). A place beyond a list reads as the empty entry of R69. -/
structure Pst where
  styleMap : List (Option Nat)
  programs : List Program
  records : List SpotRecord
  schedules : List Schedule
  bands : List Band
  dressLimit : Nat
  deriving DecidableEq, Repr

/-- R180, R183: the settings of the image header. -/
structure Settings where
  ownId : Nat
  role : Nat
  bitRate : Option BitRate
  feeder : Nat
  feederLimit : Nat
  countLimit : Nat
  avgN : Nat
  claimLead : Nat
  claimWaitLimit : Nat
  lateMargin : Nat
  abortPath : AbortPath
  deriving DecidableEq, Repr

/-- R84: the active body, copied from the head record at activation. -/
structure ActiveBody where
  serial : Nat
  zoneSeq : Nat
  style : Nat
  options : BitVec 8
  program : Option Nat
  deriving DecidableEq, Repr

/-- R85: a plan entry. -/
structure PlanEntry where
  recIdx : Nat
  spotId : Nat
  sched : Nat
  outcome : Outcome
  cause : Cause
  deriving DecidableEq, Repr

/-- R102, R159: what a SPOT-DONE carries of the current of a spot. -/
structure SpotResult where
  worst : Worst
  mean : Nat
  res : Nat
  pulses : Nat
  ext : Bool
  deriving DecidableEq, Repr

/-- R84: the spot in hand. Timers are in µs; `result` is fixed at current end (R99, R159). -/
structure SpotInHand where
  planIdx : Nat
  squeezeLeft : Nat
  holdLeft : Nat
  earlyOpen : Bool
  result : Option SpotResult
  deriving DecidableEq, Repr

/-- The Spot Sequencer (R84). `bodyTime` and `moveTimer` are in µs. -/
structure Ssq where
  state : SsqState
  pass : Pass
  active : Option ActiveBody
  plan : List PlanEntry
  cursor : Nat
  deferred : List Nat
  ending : Bool
  inHand : Option SpotInHand
  bodyTime : Nat
  moveTimer : Nat
  moveOpen : Bool
  late : Bool
  /-- R84: learned move times by record index, 0 beyond the list. -/
  learned : List Nat
  deriving DecidableEq, Repr

/-- R121: the abort of the spot in hand. -/
structure AbortRecord where
  cause : Cause
  path : AbortPath
  s0 : Nat
  deriving DecidableEq, Repr

/-- R121: schedule number and boost of the spot handed over at entry to FIRING. -/
structure CpgSpot where
  sched : Nat
  boost : Nat
  deriving DecidableEq, Repr

/-- The Current Profile Generator (R121). -/
structure Cpg where
  phase : Phase
  spot : Option CpgSpot
  g : Nat
  setpoint : Nat
  count : Nat
  pulseIdx : Nat
  extUsed : Bool
  begun : Bool
  abort : Option AbortRecord
  w : Nat
  /-- R142: the own row lapsed during current, so the next update is the abort end. -/
  slotLost : Bool
  deriving DecidableEq, Repr

/-- The Weld Monitor (R151). -/
structure Wmn where
  pulseIdx : Nat
  len : Nat
  blank : Nat
  pos : Nat
  iSum : Nat
  vSum : Nat
  judged : Nat
  noneBelow : Nat
  lowBelow : Nat
  highAbove : Nat
  /-- Results of pulses 1..9, pulse i at place i − 1. -/
  results : List PulseResult
  worst : Worst
  lastMean : Nat
  lastRes : Nat
  deriving DecidableEq, Repr

/-- R143: the status flags of a sample frame. -/
structure StageStatus where
  ready : Bool
  overtemp : Bool
  supplyLow : Bool
  deriving DecidableEq, Repr

/-- The Stage Link (R143). -/
structure Sgl where
  link : LinkState
  nextNum : Nat
  missing : Nat
  status : Option StageStatus
  answered : Bool
  /-- R144: µs to the next update while the link is ACTIVE or FAULT. -/
  updateIn : Nat
  /-- R191: the setpoint frame last sent. -/
  lastFrame : List Byte
  deriving DecidableEq, Repr

/-- The reports of section 8.4. -/
inductive Report where
  | programStart (serial zoneSeq style program planCount firstSpot : Nat)
  | spotDone (serial zoneSeq spotId : Nat) (pass : Pass) (outcome : Outcome) (cause : Cause) (res : SpotResult)
      (earlyOpen : Bool)
  | revisitStart (serial zoneSeq : Nat) (spots : List Nat)
  | bodyDone (serial zoneSeq style : Nat) (program : Option Nat) (nowork exited : Bool)
      (good suspect aborted missed e : Nat)
  | event (flag : Flag) (a0 a1 a2 a3 : Byte)
  deriving DecidableEq, Repr

/-- R171: a report of the FIFO with its report number. -/
structure Numbered where
  number : Nat
  report : Report
  deriving DecidableEq, Repr

/-- The Robot Link (R165, R171, R173, R175, R177). -/
structure Rlk where
  /-- R165: the held command, as kind and fields of the frame it needs; the busy mark is its presence. -/
  mailbox : Option FrameBody
  fifo : List Numbered
  counter : Nat
  flags : BitVec 16
  mask : BitVec 16
  cursorTable : Table
  cursorIndex : Nat
  /-- R161: the bytes shifted out in the last transaction, port byte first, as many as were clocked. -/
  out : List Byte
  deriving DecidableEq, Repr

/-- The Image Loader (R180, R181). -/
structure Iml where
  phase : LoadPhase
  blocks : Nat
  reason : LoadReason
  item : Nat
  /-- R181: the image length and spot record count have been tested and hold. -/
  tested : Bool
  length : Nat
  image : List Byte
  /-- R181: the image memory is selected on the memory port (log 30). -/
  selected : Bool
  /-- R181: the bytes sent to the image memory in this load: read instruction and address (log 30). -/
  sent : List Byte
  deriving DecidableEq, Repr

/-- The whole node, and the queue of commands waiting for it. -/
structure State where
  zbc : Zbc
  plt : Plt
  sru : Sru
  bq : Bq
  pst : Pst
  settings : Settings
  ssq : Ssq
  cpg : Cpg
  wmn : Wmn
  sgl : Sgl
  rlk : Rlk
  iml : Iml
  /-- The model's own field, an input of the robot link's port (R161, log 36): the bytes the robot controller clocks beyond
  the fixed length of a complete transaction. Nothing in the node changes it. -/
  clockedBeyond : Nat
  /-- The model's own field (log 6): selects the next free choice. -/
  freeIndex : Nat
  pending : List Instr
  deriving DecidableEq, Repr

/-- Reasons for which the node itself stops. The spec names none: every bad image, command, frame or answer has an
effect it states (INERT, COMMAND_REFUSED, discard, LINK fault), so no constructor exists and nothing raises one. -/
inductive Fault where
  deriving DecidableEq, Repr

/-- Reasons for which the model gives a command no meaning. -/
inductive Refusal where
  /-- Raised by an arm of `exec` that has no meaning yet (none has it). Safe: the run stops. -/
  | notModelled (mnemonic : String)
  deriving DecidableEq, Repr

/-! ### Values after power-on and RESTART -/

/-- R22: the Zone Bus Controller at entry to LOADING. -/
def Zbc.reset : Zbc :=
  { node := .loading, line := .busy, synced := false, claimSlot := none, releaseSlot := none, announceSlot := none,
    releaseCancelled := false, chosen := none, startIn := 0, wire := none, failures := 0, joinTimer := none,
    txBits := [], drive := .recessive, clashTold := false }

/-- R24: every row empty, derate percent 100. -/
def Plt.reset : Plt := { rows := List.replicate 31 none, derate := 100 }

/-- R33: no claim, request, record, timer or mark. -/
def Sru.reset : Sru :=
  { claim := .none, request := none, record := none, waitTimer := none, expiryHeld := false, withdrawn := false,
    visit := 0, visitRequested := false }

/-- R51: empty queue, every history entry 1, hold clear. -/
def Bq.reset : Bq :=
  { queue := [], arrivalNext := 0, lastSeq := none, pitchTimer := none, history := List.replicate 8 1,
    basePitch := 1, hold := false, holdTimer := none }

/-- R69: the empty store. -/
def Pst.reset : Pst :=
  { styleMap := [], programs := [], records := [], schedules := [], bands := [], dressLimit := 0 }

/-- R180: the unloaded settings. -/
def Settings.reset : Settings :=
  { ownId := 0, role := 0, bitRate := none, feeder := 0, feederLimit := 0, countLimit := 0, avgN := 1,
    claimLead := 0, claimWaitLimit := 0, lateMargin := 0, abortPath := .cut }

/-- R84: IDLE with nothing in hand and every learned move time 0. -/
def Ssq.reset : Ssq :=
  { state := .idle, pass := .main, active := none, plan := [], cursor := 0, deferred := [], ending := false,
    inHand := none, bodyTime := 0, moveTimer := 0, moveOpen := false, late := false, learned := [] }

/-- R121: OFF with W at 0. -/
def Cpg.reset : Cpg :=
  { phase := .off, spot := none, g := 0, setpoint := 0, count := 0, pulseIdx := 0, extUsed := false, begun := false,
    abort := none, w := 0, slotLost := false }

/-- R151: every sum, count, position and threshold 0, no result. The rule gives the pulse index and the pulse length no
value at reset, and 0 lies outside the range of both: 0 is the model's choice (DESIGN CHOICE, log 5). -/
def Wmn.reset : Wmn :=
  { pulseIdx := 0, len := 0, blank := 0, pos := 0, iSum := 0, vSum := 0, judged := 0, noneBelow := 0, lowBelow := 0,
    highAbove := 0, results := List.replicate 9 .noResult, worst := .ok, lastMean := 0, lastRes := 0 }

/-- R143: IDLE, next update number 0. -/
def Sgl.reset : Sgl :=
  { link := .idle, nextNum := 0, missing := 0, status := none, answered := false, updateIn := 0, lastFrame := [] }

/-- R165, R169, R171, R173, R175, R177: empty mailbox and FIFO, clear flags and mask, cursor at PLT row 1. -/
def Rlk.reset : Rlk :=
  { mailbox := none, fifo := [], counter := 0, flags := 0, mask := 0, cursorTable := .plt, cursorIndex := 1,
    out := [] }

/-- R180, R181: a load begins at phase READING with a block count of 0, the memory selected and the read instruction
0x03 sent with the address 0x0000 (log 30). -/
def Iml.reset : Iml :=
  { phase := .reading, blocks := 0, reason := .none, item := 0, tested := false, length := 0, image := [],
    selected := true, sent := [0x03, 0x00, 0x00] }

/-- The node right after power-on, at its entry to LOADING (R180), with no command waiting. -/
def State.reset : State :=
  { zbc := Zbc.reset, plt := Plt.reset, sru := Sru.reset, bq := Bq.reset, pst := Pst.reset,
    settings := Settings.reset, ssq := Ssq.reset, cpg := Cpg.reset, wmn := Wmn.reset, sgl := Sgl.reset,
    rlk := Rlk.reset, iml := Iml.reset, clockedBeyond := 0, freeIndex := 0, pending := [] }

/-! ### Changing one block of the node -/

/-- The node with its Zone Bus Controller changed. -/
def State.modZbc (s : State) (f : Zbc → Zbc) : State := { s with zbc := f s.zbc }
/-- The node with its Peer Load Table changed. -/
def State.modPlt (s : State) (f : Plt → Plt) : State := { s with plt := f s.plt }
/-- The node with its Slot Request Unit changed. -/
def State.modSru (s : State) (f : Sru → Sru) : State := { s with sru := f s.sru }
/-- The node with its Body Queue changed. -/
def State.modBq (s : State) (f : Bq → Bq) : State := { s with bq := f s.bq }
/-- The node with its Program Store changed. -/
def State.modPst (s : State) (f : Pst → Pst) : State := { s with pst := f s.pst }
/-- The node with its settings changed. -/
def State.modSettings (s : State) (f : Settings → Settings) : State := { s with settings := f s.settings }
/-- The node with its Spot Sequencer changed. -/
def State.modSsq (s : State) (f : Ssq → Ssq) : State := { s with ssq := f s.ssq }
/-- The node with its Current Profile Generator changed. -/
def State.modCpg (s : State) (f : Cpg → Cpg) : State := { s with cpg := f s.cpg }
/-- The node with its Weld Monitor changed. -/
def State.modWmn (s : State) (f : Wmn → Wmn) : State := { s with wmn := f s.wmn }
/-- The node with its Stage Link changed. -/
def State.modSgl (s : State) (f : Sgl → Sgl) : State := { s with sgl := f s.sgl }
/-- The node with its Robot Link changed. -/
def State.modRlk (s : State) (f : Rlk → Rlk) : State := { s with rlk := f s.rlk }
/-- The node with its Image Loader changed. -/
def State.modIml (s : State) (f : Iml → Iml) : State := { s with iml := f s.iml }
/-- The node with its counter of free choices changed. -/
def State.modFree (s : State) (f : Nat → Nat) : State := { s with freeIndex := f s.freeIndex }
/-- The node with another queue of waiting commands. -/
def State.withPending (s : State) (q : List Instr) : State := { s with pending := q }

end Sys2Proof.Machine
end

