-- ==== Sys2Proof/Machine/Operands.lean ====
section
/-! DEFINITION. What commands and tables are made of: byte order, the codes of chapter 10, the look-ups of the
Program Store (chapter 4) and the derived figures of a schedule. -/

namespace Sys2Proof.Machine

/-! ### Bytes, most significant first (chapter 10) -/

/-- A number as one byte. -/
def byte (n : Nat) : Byte := BitVec.ofNat 8 n

/-- A number as two bytes, most significant first. -/
def bytes2 (n : Nat) : List Byte := [byte (n / 256), byte n]

/-- A number as three bytes, most significant first. -/
def bytes3 (n : Nat) : List Byte := [byte (n / 65536), byte (n / 256), byte n]

/-- Byte `i` of a run of bytes; a place beyond the run reads 0. -/
def byteAt (bs : List Byte) (i : Nat) : Nat := (bs.getD i 0).toNat

/-- The two-byte number at place `i`, most significant byte first. -/
def wordAt (bs : List Byte) (i : Nat) : Nat := byteAt bs i * 256 + byteAt bs (i + 1)

/-- `n` bytes: the given ones, cut or filled with zero bytes. -/
def padTo (n : Nat) (bs : List Byte) : List Byte := (bs ++ List.replicate n 0).take n

/-- A mark as a number: 1 set, 0 clear. -/
def bit (b : Bool) : Nat := if b then 1 else 0

/-- A value reported in two bytes, saturated at 65535 (R193). -/
def sat16 (n : Nat) : Nat := min n 65535

/-! ### Codes of chapter 10 -/

/-- R190: the kind code of a frame. -/
def kindCode (b : FrameBody) : Nat :=
  match b with
  | .halt _ => 0
  | .resume => 1
  | .body _ _ _ _ => 2
  | .exit _ => 3
  | .derate _ _ => 4
  | .claim _ _ _ _ _ => 5
  | .release _ _ => 6
  | .reserved k => 7 + k.val

/-- R192: the command kind of the held command that needs this frame, 0 for a frame of no command. -/
def commandCode (b : FrameBody) : Nat :=
  match b with
  | .body _ _ _ _ => 1
  | .exit _ => 2
  | .derate _ _ => 3
  | .halt _ => 4
  | .resume => 5
  | .claim _ _ _ _ _ => 0
  | .release _ _ => 0
  | .reserved _ => 0

/-- Section 1.5 and R39: the precedence an ANNOUNCE or RELEASE frame of this kind is sent with. -/
def announcePrec (b : FrameBody) : BitVec 4 :=
  match b with
  | .halt _ => 0
  | .resume => 1
  | .body _ _ _ _ => 1
  | .exit _ => 2
  | .derate _ _ => 2
  | .claim _ _ _ _ _ => 2
  | .release _ _ => 2
  | .reserved _ => 2

def nodeCode : NodeState → Nat
  | .loading => 0 | .inert => 1 | .joining => 2 | .run => 3 | .silent => 4

def loadPhaseCode : LoadPhase → Nat
  | .reading => 0 | .validating => 1 | .good => 2 | .bad => 3

def loadReasonCode : LoadReason → Nat
  | .none => 0 | .length => 1 | .check => 2 | .id => 3 | .field => 4

def ssqCode : SsqState → Nat
  | .idle => 0 | .awaitGun => 1 | .squeeze => 2 | .firing => 3 | .hold => 4

def passCode : Pass → Nat
  | .main => 0 | .revisit => 1

def claimCode : ClaimState → Nat
  | .none => 0 | .waiting => 1 | .offered => 2 | .granted => 3 | .releasing => 4

def outcomeCode : Outcome → Nat
  | .pending => 0 | .deferred => 1 | .good => 2 | .suspect => 3 | .aborted => 4 | .missed => 5

def causeCode : Cause → Nat
  | .none => 0 | .claimTimeout => 1 | .oversize => 2 | .badSchedule => 3 | .skipped => 4 | .exited => 5
  | .deferFull => 6 | .stage => 7 | .halted => 8 | .gunOpened => 9 | .high => 10 | .noCurrent => 11 | .link => 12

def worstCode : Worst → Nat
  | .ok => 0 | .low => 1 | .high => 2 | .none => 3

def markCode : Mark → Nat
  | .absent => 0 | .unusable => 1 | .usable => 2

/-- Program number 0..31, 255 for NONE. -/
def programCode : Option Nat → Nat
  | some p => p
  | none => 255

/-- R192: the table codes. -/
def tableCode : Table → Nat
  | .plt => 1 | .bq => 2 | .plan => 3 | .deferred => 4 | .pitch => 5 | .learned => 6 | .schedule => 7

/-- R192: the table a code names. -/
def tableOf (code : Nat) : Option Table :=
  match code with
  | 1 => some .plt
  | 2 => some .bq
  | 3 => some .plan
  | 4 => some .deferred
  | 5 => some .pitch
  | 6 => some .learned
  | 7 => some .schedule
  | _ => none

/-- R177: the first index of a table. -/
def tableFirst : Table → Nat
  | .plt => 1
  | .bq | .plan | .deferred | .pitch | .learned | .schedule => 0

/-- R177: one past the last index of a table: the end position. -/
def tableEnd : Table → Nat
  | .plt => 32 | .bq => 8 | .plan => 64 | .deferred => 8 | .pitch => 8 | .learned => 1024 | .schedule => 64

/-- R192: the bit position of a flag. -/
def flagBit : Flag → Nat
  | .imageBad => 0 | .scheduleBad => 1 | .joinDone => 2 | .busSilent => 3 | .idClash => 4 | .alone => 5
  | .bodyDropped => 6 | .bodyDuplicate => 7 | .bodyGap => 8 | .spotMismatch => 9 | .robotLate => 10
  | .mailboxOverrun => 11 | .commandRefused => 12 | .zoneHoldChange => 13 | .tipDressDue => 14 | .reportLost => 15

/-- R192: a flag as a set of one. -/
def flagMask (f : Flag) : BitVec 16 := BitVec.ofNat 16 (2 ^ flagBit f)

/-- R1: the bit time in µs, 0 with no bit rate. -/
def bitTimeUs : Option BitRate → Nat
  | some .kbit250 => 4
  | some .kbit500 => 2
  | some .kbit1000 => 1
  | none => 0

/-! ### Schedules -/

/-- R69: an absent schedule. -/
def absentSchedule : Schedule :=
  { mark := .absent, level := 0, load := 0, squeeze := 0, upslope := 0, shape := 0, pulses := 0, pulse := 0,
    cool := 0, downslope := 0, endPercent := 0, hold := 0, windowLow := 0, windowHigh := 0, blank := 0, action := 0,
    retry := 0 }

/-- R77: the profile duration D in ms, of a schedule of at least one pulse. -/
def profileMs (c : Schedule) : Nat := c.upslope + c.pulses * c.pulse + (c.pulses - 1) * c.cool + c.downslope

/-- R36, R77: the extension reserve X in ms, 0 for every retry code but enabled (1). -/
def reserveMs (c : Schedule) : Nat := if c.retry = 1 then c.cool + c.pulse else 0

/-- R77 in full over the integers: D of any fields an image may hold, those of an UNUSABLE schedule included. -/
def profileInt (c : Schedule) : Int :=
  c.upslope + c.pulses * c.pulse + ((c.pulses : Int) - 1) * c.cool + c.downslope

/-- R193: the D a SCHEDULE row shows. The rules state no value for a negative sum: a free value (log 7). -/
def shownProfile (c : Schedule) : Nat :=
  if profileInt c < 0 then sat16 (Config.negativeDuration (profileInt c)) else sat16 (profileInt c).toNat

/-- R36, R82, R193: the X a SCHEDULE row shows, that of an UNUSABLE schedule included. -/
def shownReserve (c : Schedule) : Nat := sat16 (reserveMs c)

/-- R76: every field of a schedule lies in its range. -/
def scheduleInRange (c : Schedule) : Bool :=
  decide (1 ≤ c.level ∧ c.level ≤ 4095 ∧ 1 ≤ c.load ∧ c.load ≤ 63 ∧ c.squeeze ≤ 2000 ∧ c.upslope ≤ 200 ∧
    c.shape ≤ 1 ∧ 1 ≤ c.pulses ∧ c.pulses ≤ 8 ∧ 1 ≤ c.pulse ∧ c.pulse ≤ 400 ∧ c.cool ≤ 200 ∧ c.downslope ≤ 200 ∧
    c.endPercent ≤ 100 ∧ c.hold ≤ 2000 ∧ 50 ≤ c.windowLow ∧ c.windowLow ≤ 100 ∧ 100 ≤ c.windowHigh ∧
    c.windowHigh ≤ 200 ∧ c.blank ≤ 127 ∧ c.action ≤ 1 ∧ c.retry ≤ 1)

/-- R78: the mark of a present schedule (R194: a presence code other than 1 is UNUSABLE). -/
def scheduleMark (presence : Nat) (c : Schedule) : Mark :=
  if presence = 0 then .absent
  else if presence = 1 ∧ scheduleInRange c = true ∧ profileMs c + reserveMs c ≤ Config.maxProfileMs then .usable
  else .unusable

/-! ### Look-ups of the Program Store -/

/-- R69: an absent program. -/
def absentProgram : Program := { mark := .absent, first := 0, count := 0 }

/-- R69: an empty spot record. -/
def emptyRecord : SpotRecord := { spotId := 0, sched := 0, mask := 0, expect := 0 }

/-- R79: the schedule look-up; a number that names no schedule answers ABSENT. -/
def scheduleOf (p : Pst) (n : Nat) : Schedule := p.schedules.getD n absentSchedule

/-- R71: the program directory entry of a number. -/
def programOf (p : Pst) (n : Nat) : Program := p.programs.getD n absentProgram

/-- R185: the spot record of an index. -/
def recordOf (p : Pst) (i : Nat) : SpotRecord := p.records.getD i emptyRecord

/-- R70: the style look-up. -/
def styleProgram (p : Pst) (style : Nat) : Option Nat :=
  match p.styleMap.getD style none with
  | none => none
  | some n => if (programOf p n).mark = .usable then some n else none

/-- R74: the option condition of a spot record. -/
def conditionHolds (r : SpotRecord) (options : BitVec 8) : Bool := options &&& r.mask == r.expect

/-- R75: the record indices of a program whose condition holds, in program order. -/
def spotList (p : Pst) (n : Nat) (options : BitVec 8) : List Nat :=
  (List.range (programOf p n).count).map (fun k => (programOf p n).first + k)
    |>.filter fun i => conditionHolds (recordOf p i) options

/-- R87: the plan entry built from a spot record. -/
def planEntryOf (p : Pst) (i : Nat) : PlanEntry :=
  { recIdx := i, spotId := (recordOf p i).spotId, sched := (recordOf p i).sched, outcome := .pending, cause := .none }

/-- R80: the boost look-up. -/
def boostOf (p : Pst) (w : Nat) : Nat :=
  match (p.bands.filter fun b => decide (b.threshold ≤ w)).getLast? with
  | some b => b.boost
  | none => 0

/-- R30: the boosted load. -/
def boostedLoad (load boost : Nat) : Nat := min 63 (ceilDiv (load * (100 + boost)) 100)

/-- R122: the boosted target. -/
def boostedTarget (level boost : Nat) : Nat := min Config.maxCode (level * (100 + boost) / 100)

/-! ### Plans -/

/-- R85: d, the number of plan entries that are final or DEFERRED. -/
def resolvedCount (plan : List PlanEntry) : Nat := (plan.filter fun e => decide (e.outcome ≠ .pending)).length

/-- R109: the number of plan entries of an outcome. -/
def outcomeCount (plan : List PlanEntry) (o : Outcome) : Nat := (plan.filter fun e => decide (e.outcome = o)).length

/-- R102: the values of a spot closed without current. -/
def noCurrentResult : SpotResult := { worst := .ok, mean := 0, res := 0, pulses := 0, ext := false }

/-- R112: the late threshold of a learned move time, in 10 ms units. -/
def lateThreshold (learned margin : Nat) : Nat := learned * (128 + margin) / 128

/-- R111: the learned move time after a sample. -/
def learnMove (m sample : Nat) : Nat :=
  if m = 0 then sample else if m ≤ sample then m + (sample - m) / 4 else m - (m - sample) / 4

/-- A list of values indexed from 0, 0 beyond its end, with place `i` set. -/
def setSparse (l : List Nat) (i v : Nat) : List Nat :=
  match l, i with
  | [], 0 => [v]
  | [], i + 1 => 0 :: setSparse [] i v
  | _ :: t, 0 => v :: t
  | h :: t, i + 1 => h :: setSparse t i v

end Sys2Proof.Machine
end

