-- ==== Sys2Proof/Machine/Flags.lean ====
section
/-! DEFINITION. The report FIFO, the event flags and the attention line (sections 8.4 to 8.6), which every block
reaches through `generate` and `raise`. -/

namespace Sys2Proof.Machine

/-- R171: the Robot Link takes a generated report: it joins the tail under the present report number, or is dropped
from a full FIFO with REPORT_LOST set; its number is spent either way. -/
def queueReport (r : Report) (k : Rlk) : Rlk :=
  if k.fifo.length < Config.fifoMax then
    { k with fifo := k.fifo ++ [{ number := k.counter, report := r }], counter := (k.counter + 1) % 256 }
  else { k with flags := k.flags ||| flagMask .reportLost, counter := (k.counter + 1) % 256 }

/-- R171: a block generates a report. -/
def generate (r : Report) (s : State) : State := s.modRlk (queueReport r)

/-- R173: the flag is set, whatever it was and whatever the mask. -/
def setFlag (f : Flag) (k : Rlk) : Rlk := { k with flags := k.flags ||| flagMask f }

/-- R173: a block raises a flag: the flag is set and an EVENT report with its argument is queued. -/
def raise (f : Flag) (a0 a1 a2 a3 : Byte) (s : State) : State :=
  generate (.event f a0 a1 a2 a3) (s.modRlk (setFlag f))

/-- R193: a flag whose argument is one number in the last byte. -/
def raiseCount (f : Flag) (n : Nat) (s : State) : State := raise f 0 0 0 (byte n) s

/-- R193: a flag whose argument is a serial in the last three bytes. -/
def raiseSerial (f : Flag) (serial : Nat) (s : State) : State :=
  raise f 0 (byte (serial / 65536)) (byte (serial / 256)) (byte serial) s

/-- R193: a flag whose argument is a two-byte number in the first two bytes. -/
def raiseWord (f : Flag) (n : Nat) (s : State) : State := raise f (byte (n / 256)) (byte n) 0 0 s

/-- R161, R165: COMMAND_REFUSED with the transaction kind and the command or motion kind read, 0 when none. -/
def refuse (transaction kind : Byte) (s : State) : State := raise .commandRefused transaction kind 0 0 s

/-- R173: whether a flag is set. -/
def State.flagSet (s : State) (f : Flag) : Bool := s.rlk.flags &&& flagMask f != 0

/-- R175: the attention line. -/
def State.attention (s : State) : Bool := !s.rlk.fifo.isEmpty || s.rlk.flags &&& s.rlk.mask != 0

end Sys2Proof.Machine
end

