-- ==== Sys2Proof/Machine/Frames.lean ====
section
/-! DEFINITION. Zone bus frames as bits: field order, check, bit insertion and arbitration (R3 to R6, R190), and the
tests a completed frame is subject to (R10). A recessive bit is true (1), a dominant bit false (0). -/

namespace Sys2Proof.Machine

/-! ### Fields and check -/

/-- R3: a field as bits, most significant first. -/
def bitsOf (w : Nat) (x : BitVec w) : List Bool := (List.range w).map fun i => x.getLsbD (w - 1 - i)

/-- The number a run of bits holds, most significant first. -/
def natOfBits (l : List Bool) : Nat := l.foldl (fun n b => 2 * n + b.toNat) 0

/-- The field of width `w` that a run of bits holds, most significant first. -/
def fieldOf (w : Nat) (l : List Bool) : BitVec w := BitVec.ofNat w (natOfBits l)

/-- R3: one bit through the check register, polynomial x^16 + x^12 + x^5 + 1. -/
def crc16Bit (reg : BitVec 16) (b : Bool) : BitVec 16 :=
  if reg.getLsbD 15 == b then reg <<< 1 else reg <<< 1 ^^^ 0x1021#16

/-- R3: the check over a run of bits, the register set to all ones before the first, with no final inversion. -/
def crc16 (l : List Bool) : BitVec 16 := l.foldl crc16Bit 0xFFFF#16

/-- The bits of an arbitration field. -/
def arbBits (a : ArbField) : List Bool := bitsOf 4 a.prec ++ bitsOf 5 a.sender

/-- R190: the payload of a kind, its fields in the order listed. -/
def payloadBits (b : FrameBody) : List Bool :=
  match b with
  | .halt seconds => bitsOf 8 seconds
  | .resume => []
  | .body serial style options zoneSeq => bitsOf 24 serial ++ bitsOf 4 style ++ bitsOf 8 options ++ bitsOf 8 zoneSeq
  | .exit serial => bitsOf 24 serial
  | .derate feeder percent => bitsOf 2 feeder ++ bitsOf 8 percent
  | .claim feeder load lapse zoneSeq spotId =>
    bitsOf 2 feeder ++ bitsOf 6 load ++ bitsOf 8 lapse ++ bitsOf 8 zoneSeq ++ bitsOf 10 spotId
  | .release feeder spotId => bitsOf 2 feeder ++ bitsOf 10 spotId
  | .reserved _ => []

/-- R190: the payload length of a kind code. -/
def payloadLength (kind : Nat) : Nat :=
  match kind with
  | 0 => 8
  | 2 => 44
  | 3 => 24
  | 4 => 10
  | 5 => 34
  | 6 => 12
  | _ => 0

/-- R3: the fields the check is computed over, in the order sent. -/
def checkedBits (f : Frame) : List Bool :=
  arbBits f.arb ++ bitsOf 4 (BitVec.ofNat 4 (kindCode f.body)) ++ payloadBits f.body

/-- R3: the frame from the start bit through the check, before bit insertion. -/
def plainBits (f : Frame) : List Bool := false :: (checkedBits f ++ bitsOf 16 (crc16 (checkedBits f)))

/-! ### Bit insertion -/

/-- R4, the sender's side: after seven equal bits one bit of the opposite level is sent; `lvl` and `run` are the
level and length of the present run. -/
def insertBits (lvl : Bool) (run : Nat) (l : List Bool) : List Bool :=
  match l with
  | [] => []
  | b :: t =>
    let r := if b = lvl then run + 1 else 1
    if r = 7 then b :: (!b) :: insertBits (!b) 1 t else b :: insertBits b r t

/-- R4, the receiver's side: the bit after seven equal bits is removed; none where it has the same level (an
insertion violation). `due` marks that the next bit is one to remove. -/
def removeBits (lvl : Bool) (run : Nat) (due : Bool) (l : List Bool) : Option (List Bool) :=
  match l with
  | [] => if due then none else some []
  | b :: t =>
    if due then if b = lvl then none else removeBits b 1 false t
    else
      let r := if b = lvl then run + 1 else 1
      (removeBits b r (r == 7) t).map (b :: ·)

/-- R3, R4: what the sender puts on the line from the start bit through the check. -/
def lineBits (f : Frame) : List Bool := insertBits true 0 (plainBits f)

/-! ### Reading a frame -/

/-- R4, R5: what a receiver finds on the line. -/
inductive FrameRead where
  | violation
  | badCheck
  | good (f : Frame)
  deriving DecidableEq, Repr

/-- R190: kind and payload from a kind code and its payload bits. -/
def bodyOf (kind : Nat) (p : List Bool) : FrameBody :=
  match kind with
  | 0 => .halt (fieldOf 8 p)
  | 1 => .resume
  | 2 => .body (fieldOf 24 (p.take 24)) (fieldOf 4 ((p.drop 24).take 4)) (fieldOf 8 ((p.drop 28).take 8))
      (fieldOf 8 (p.drop 36))
  | 3 => .exit (fieldOf 24 p)
  | 4 => .derate (fieldOf 2 (p.take 2)) (fieldOf 8 (p.drop 2))
  | 5 => .claim (fieldOf 2 (p.take 2)) (fieldOf 6 ((p.drop 2).take 6)) (fieldOf 8 ((p.drop 8).take 8))
      (fieldOf 8 ((p.drop 16).take 8)) (fieldOf 10 (p.drop 24))
  | 6 => .release (fieldOf 2 (p.take 2)) (fieldOf 10 (p.drop 2))
  | k => .reserved (Fin.ofNat 9 (k - 7))

/-- R5: the fields and check of a frame whose inserted bits are removed; its length must be the one of its kind. -/
def readPlain (l : List Bool) : FrameRead :=
  match l with
  | [] => .violation
  | true :: _ => .violation
  | false :: t =>
    let kind := natOfBits ((t.drop 9).take 4)
    let n := 13 + payloadLength kind
    if t.length ≠ n + 16 then .violation
    else if bitsOf 16 (crc16 (t.take n)) ≠ t.drop n then .badCheck
    else .good
      { arb := { prec := fieldOf 4 (t.take 4), sender := fieldOf 5 ((t.drop 4).take 5) },
        body := bodyOf kind ((t.drop 13).take (payloadLength kind)) }

/-- R4, R5: what a receiver decodes from the bits of a frame, from the start bit through the check. -/
def readFrame (l : List Bool) : FrameRead :=
  match removeBits true 0 false l with
  | none => .violation
  | some p => readPlain p

/-! ### Arbitration -/

/-- Section 1.1: the line while two nodes send: a dominant bit (false) of either overrides. -/
def wiredAnd (a b : List Bool) : List Bool := List.zipWith (· && ·) a b

/-- R6: a sender goes on while it never sent recessive and read dominant. -/
def keepsLine (sent line : List Bool) : Bool := (List.zipWith (fun x y => !x || y) sent line).all id

/-- R6: arbitration fields in the order in which they win the line, lower first: precedence, then sender id. -/
def arbKey (a : ArbField) : Nat := a.prec.toNat * 32 + a.sender.toNat

/-! ### Tests on a completed frame -/

/-- R10: the sender id is not 0, the kind is one of 0..6 and no field is out of the range of its kind. -/
def frameValid (f : Frame) : Bool :=
  decide (f.arb.sender.toNat ≠ 0) &&
  match f.body with
  | .halt _ => true
  | .resume => true
  | .body serial _ _ _ => decide (serial.toNat ≠ 0)
  | .exit serial => decide (serial.toNat ≠ 0)
  | .derate _ _ => true
  | .claim _ load lapse _ spotId =>
    decide (load.toNat ≠ 0 ∧ lapse.toNat ≠ 0 ∧ 1 ≤ spotId.toNat ∧ spotId.toNat ≤ 999)
  | .release _ spotId => decide (1 ≤ spotId.toNat ∧ spotId.toNat ≤ 999)
  | .reserved _ => false

end Sys2Proof.Machine
end

