-- ==== Sys2Proof/Machine/Ops.lean ====
section
/-! DEFINITION. Operations that several commands share: the rows of the Peer Load Table, the evaluation, offer and
release of the node's claim, arbitration starts, and the passing of time. -/

namespace Sys2Proof.Machine

/-! ### The Peer Load Table -/

/-- R23: the row of a node id; there is none for id 0. -/
def rowOf (p : Plt) (id : Nat) : Option Row := if id = 0 then none else p.rows.getD (id - 1) none

/-- R23: the table with the row of a node id set or cleared. -/
def setRow (id : Nat) (r : Option Row) (p : Plt) : Plt := if id = 0 then p else { p with rows := p.rows.set (id - 1) r }

/-- R23: the own row. -/
def State.ownRow (s : State) : Option Row := rowOf s.plt s.settings.ownId

/-- R20: all rows cleared, the derate percent left. -/
def clearRows (p : Plt) : Plt := { p with rows := List.replicate 31 none }

/-- R20: the number of occupied rows. -/
def occupiedRows (p : Plt) : Nat := (p.rows.filter Option.isSome).length

/-- R31: the occupied rows whose feeder is the given one. -/
def feederRows (p : Plt) (feeder : Nat) : List Row := (p.rows.filterMap id).filter fun r => decide (r.feeder = feeder)

/-- R31: L, the load on the own feeder. -/
def State.feederLoad (s : State) : Nat := ((feederRows s.plt s.settings.feeder).map Row.load).sum

/-- R31: C, the claims on the own feeder. -/
def State.feederClaims (s : State) : Nat := (feederRows s.plt s.settings.feeder).length

/-- R29: the effective limit of the own feeder. -/
def State.effectiveLimit (s : State) : Nat := s.settings.feederLimit * s.plt.derate / 100

/-! ### The spot in hand, as the claim sees it -/

/-- R95: the remaining squeeze of the spot in hand, in µs. -/
def State.squeezeLeft (s : State) : Nat :=
  match s.ssq.inHand with
  | some h => h.squeezeLeft
  | none => 0

/-- R84: the body time E in 10 ms units. -/
def State.bodyE (s : State) : Nat := min Config.bodyTimeMax (s.ssq.bodyTime / Config.usPerTen)

/-- R95: the claim lead in µs. -/
def State.leadUs (s : State) : Nat := s.settings.claimLead * Config.usPerMs

/-- R43: the claim-wait limit in µs. -/
def State.waitLimitUs (s : State) : Nat := s.settings.claimWaitLimit * Config.usPerMs

/-! ### Evaluating the claim -/

/-- R30: the boost taken from the weld count at this moment. -/
def State.boostNow (s : State) : Nat := boostOf s.pst s.cpg.w

/-- R30: the boosted load of a schedule at this moment. -/
def State.boostedLoadOf (s : State) (sched : Nat) : Nat := boostedLoad (scheduleOf s.pst sched).load s.boostNow

/-- R31: the fit test of a boosted load. -/
def State.fits (s : State) (load : Nat) : Bool :=
  decide (s.feederLoad + load ≤ s.effectiveLimit ∧ s.feederClaims + 1 ≤ s.settings.countLimit)

/-- R37: r, in ms. -/
def State.lapseSqueeze (s : State) : Nat := max 1 (min (ceilDiv s.squeezeLeft Config.usPerMs) s.settings.claimLead)

/-- R37: the lapse of a claim on a schedule, in units of 2 ms. -/
def State.lapseUnits (s : State) (sched : Nat) : Nat :=
  ceilDiv (s.lapseSqueeze + profileMs (scheduleOf s.pst sched) + reserveMs (scheduleOf s.pst sched)) 2 +
    Config.guardUnits

/-- R59: q, the bodies behind the head. -/
def State.behindHead (s : State) : Nat := s.bq.queue.length - 1

/-- R38: the urgency from its inputs: elapsed E, base pitch P, resolved d, plan count T and queued q. -/
def urgencyOf (e p d t q : Nat) : Nat :=
  (max 0 (min 11 ((12 * e / p : Nat) - (12 * d / t : Nat) + 4 + 2 * q : Int))).toNat

/-- R38: the urgency of a claim of this pass at this moment. -/
def State.urgency (s : State) (pass : Pass) : Nat :=
  match pass with
  | .revisit => 11
  | .main => urgencyOf s.bodyE s.bq.basePitch (resolvedCount s.ssq.plan) s.ssq.plan.length s.behindHead

/-- R35: the offer a request leads to at this moment, none where the fit test fails. -/
def State.offerFor (s : State) (q : Request) : Option PendingClaim :=
  let load := s.boostedLoadOf q.sched
  if s.fits load then
    some { feeder := s.settings.feeder, load := load, lapse := s.lapseUnits q.sched, zoneSeq := q.zoneSeq,
           spotId := q.spotId, prec := 14 - s.urgency q.pass, boost := s.boostNow }
  else none

/-- R35: the CLAIM frame of an offer. -/
def State.claimFrameOf (s : State) (c : PendingClaim) : Frame :=
  { arb := { prec := BitVec.ofNat 4 c.prec, sender := BitVec.ofNat 5 s.settings.ownId },
    body := .claim (BitVec.ofNat 2 c.feeder) (BitVec.ofNat 6 c.load) (BitVec.ofNat 8 c.lapse)
      (BitVec.ofNat 8 c.zoneSeq) (BitVec.ofNat 10 c.spotId) }

/-- R34: nothing but the fit test keeps the claim WAITING. -/
def State.mayOffer (s : State) : Bool :=
  decide (s.zbc.node = .run ∧ s.sru.claim = .waiting ∧ s.bq.hold = false ∧ s.ownRow = none ∧
    s.zbc.releaseSlot = none ∧ s.zbc.announceSlot = none)

/-! ### Arbitration starts -/

/-- R14: the slot chosen; its start bit follows within one bit time (R2). -/
def choose (slot : Slot) (s : State) : State :=
  s.modZbc fun z => { z with chosen := some slot, startIn := max 1 (bitTimeUs s.settings.bitRate) }

/-- R35: the SRU evaluates its WAITING claim: it fills the CLAIM slot, or declines. -/
def evaluateClaim (s : State) : State :=
  match s.sru.request with
  | none => s
  | some q =>
    match s.offerFor q with
    | none => s
    | some c =>
      choose .claim ((s.modZbc fun z => { z with claimSlot := some (s.claimFrameOf c) }).modSru
        fun u => { u with record := some c })

/-- The precedence of the frame a slot holds. -/
def slotPrec (f : Frame) : Nat := f.arb.prec.toNat

/-- R14: the choice between the RELEASE and the ANNOUNCE slot, or the question to the SRU when both are empty. -/
def chooseSlot (s : State) : State :=
  match s.zbc.releaseSlot, s.zbc.announceSlot with
  | some r, some a => if slotPrec a < slotPrec r then choose .announce s else choose .release s
  | some _, none => choose .release s
  | none, some _ => choose .announce s
  | none, none => if s.mayOffer then evaluateClaim s else s

/-- R15, R35: a choice whose start bit is not sent is void; a filled CLAIM slot is emptied and nothing it computed
is kept. -/
def voidChoice (s : State) : State :=
  match s.zbc.chosen with
  | none => s
  | some .claim =>
    (s.modZbc fun z => { z with chosen := none, startIn := 0, claimSlot := none }).modSru
      fun u => { u with record := none }
  | some _ => s.modZbc fun z => { z with chosen := none, startIn := 0 }

/-- R2 (log 10): a choice made afresh has its start bit in the bit time in which the choice before it had it. -/
def keepMoment (n : Nat) (z : Zbc) : Zbc := if z.chosen.isSome then { z with startIn := n } else z

/-- R14: an arbitration start. A choice whose start bit is not yet sent is made afresh, a CLAIM computed again (R35). -/
def arbitrate (s : State) : State :=
  match s.zbc.chosen with
  | none => chooseSlot s
  | some _ => (chooseSlot (voidChoice s)).modZbc (keepMoment s.zbc.startIn)

/-- R14: an arbitration start can be made now: the line is idle, no attempt runs, and the node is in a state that sends
(R18). -/
def State.arbitrationOpen (s : State) : Bool :=
  decide (s.zbc.line = .idle ∧ s.zbc.wire = none ∧ (s.zbc.node = .joining ∨ s.zbc.node = .run))

/-- R14: a slot becomes ready, or the SRU reports a change of its claim's conditions: an arbitration start if the
line stays idle. -/
def callArbitration (s : State) : State := if s.arbitrationOpen then arbitrate s else s

/-- R16, R35: cancellation of the CLAIM slot before its start bit. -/
def voidClaimChoice (s : State) : State := if s.zbc.chosen = some .claim then voidChoice s else s

/-- The frame a slot holds. -/
def slotFrame (z : Zbc) (slot : Slot) : Option Frame :=
  match slot with
  | .claim => z.claimSlot
  | .release => z.releaseSlot
  | .announce => z.announceSlot

/-- R2, R3, R35: the start bit of the chosen slot is sent; a CLAIM makes the claim OFFERED. -/
def sendStart (s : State) : State :=
  match s.zbc.chosen with
  | none => s
  | some slot =>
    let s1 := s.modZbc fun z =>
      { z with chosen := none, startIn := 0, wire := some slot, line := .busy, drive := .recessive,
               txBits := ((slotFrame z slot).map lineBits).getD [] }
    if slot = .claim then s1.modSru fun u => { u with claim := .offered } else s1

/-! ### Release, withdrawal and the end of a visit -/

/-- R45: the RELEASE of the own row. -/
def State.releaseFrameOf (s : State) (spotId : Nat) : Frame :=
  { arb := { prec := 2, sender := BitVec.ofNat 5 s.settings.ownId },
    body := .release (BitVec.ofNat 2 s.settings.feeder) (BitVec.ofNat 10 spotId) }

/-- R45: a RELEASE is queued in JOINING and RUN; in SILENT the own row is left to its lapse. -/
def queueRelease (s : State) : State :=
  match s.ownRow with
  | none => s
  | some r =>
    if s.zbc.node = .joining ∨ s.zbc.node = .run then
      callArbitration (s.modZbc fun z => { z with releaseSlot := some (s.releaseFrameOf r.spotId),
                                                  releaseCancelled := false })
    else s

/-- R45: a release order; it changes a GRANTED claim only. -/
def releaseOrder (s : State) : State :=
  if s.sru.claim = .granted then queueRelease (s.modSru fun u => { u with claim := .releasing }) else s

/-- R43: a claim enters WAITING: the timer of the visit starts at 0 or resumes. -/
def enterWaiting (u : Sru) : Sru :=
  { u with claim := .waiting, record := none, waitTimer := some (u.waitTimer.getD 0) }

/-- R45, R46: the claim leaves its row: NONE, or WAITING where the SSQ's request stands. The pending claim record, kept
since the grant, is dropped here: no rule says how long it is kept (DESIGN CHOICE, log 38). -/
def claimOver (u : Sru) : Sru :=
  if u.request.isSome then enterWaiting u else { u with claim := .none, record := none }

/-- R44: the SSQ cancels its request, with the release order that goes with it in GRANTED. -/
def cancelRequest (s : State) : State :=
  match s.sru.claim with
  | .none => s.modSru fun u => { u with request := none }
  | .waiting => (voidClaimChoice s).modSru fun u => { u with request := none, claim := .none, record := none }
  | .offered => s.modSru fun u => { u with request := none, withdrawn := true }
  | .granted => releaseOrder (s.modSru fun u => { u with request := none })
  | .releasing => s.modSru fun u => { u with request := none }

/-- R33, R43: the visit ends: the request is cancelled and the claim-wait timer discarded. -/
def endVisit (s : State) : State :=
  (cancelRequest s).modSru fun u => { u with waitTimer := none, expiryHeld := false, visitRequested := false }

/-- R33, R92: a spot visit begins, with a fresh claim-wait timer. -/
def beginVisit (s : State) : State :=
  s.modSru fun u =>
    { u with visit := u.visit + 1, waitTimer := none, expiryHeld := false, visitRequested := false }

/-- R33: the request of a visit that is not oversize acts on the claim state. -/
def standRequest (q : Request) (u : Sru) : Sru :=
  let u1 := { u with request := some q, visitRequested := true }
  match u.claim with
  | .none => enterWaiting u1
  | .waiting | .offered | .granted | .releasing => u1

/-- R43: the claim times out in WAITING: NONE, the request cleared, a filled CLAIM slot emptied (R35). -/
def dropClaim (s : State) : State :=
  (voidClaimChoice s).modSru fun u => { u with claim := .none, request := none, record := none, expiryHeld := false }

/-! ### Time -/

/-- A timer that runs down, stopped where there is none. -/
def runDown (n : Nat) (t : Option Nat) : Option Nat := t.map (· - n)

/-- R28: the lapse of every occupied row. -/
def ageRows (n : Nat) (p : Plt) : Plt :=
  { p with rows := p.rows.map fun r => r.map fun x => { x with lapse := x.lapse - n } }

/-- R43: the claim-wait timer counts while the claim is WAITING or OFFERED and the hold flag is clear. -/
def ageWait (n limit : Nat) (hold : Bool) (u : Sru) : Sru :=
  if hold = false ∧ (u.claim = .waiting ∨ u.claim = .offered) then
    { u with waitTimer := u.waitTimer.map fun v => min (v + n) limit }
  else u

/-- R60, R64: pitch timer and hold timer. -/
def ageBodies (n : Nat) (b : Bq) : Bq :=
  { b with pitchTimer := b.pitchTimer.map (· + n), holdTimer := runDown n b.holdTimer }

/-- R95, R101: the squeeze timer runs in SQUEEZE unless the zone is held, the hold timer runs in HOLD. -/
def ageSpot (n : Nat) (hold : Bool) (st : SsqState) (h : SpotInHand) : SpotInHand :=
  { h with squeezeLeft := if st = .squeeze ∧ hold = false then h.squeezeLeft - n else h.squeezeLeft,
           holdLeft := if st = .hold then h.holdLeft - n else h.holdLeft }

/-- R86, R110, R113: body time and move timer, frozen while the zone is held. -/
def ageSpots (n : Nat) (hold : Bool) (q : Ssq) : Ssq :=
  { q with inHand := q.inHand.map (ageSpot n hold q.state),
           bodyTime := if q.active.isSome ∧ hold = false then
               min (q.bodyTime + n) (Config.bodyTimeMax * Config.usPerTen) else q.bodyTime,
           moveTimer := if q.moveOpen ∧ hold = false then
               min (q.moveTimer + n) (Config.moveTimeMax * Config.usPerTen) else q.moveTimer }

/-- R144, R147: the time to the next update, in ACTIVE and FAULT. -/
def ageLink (n : Nat) (g : Sgl) : Sgl := if g.link = .idle then g else { g with updateIn := g.updateIn - n }

/-- Every timer of the node after `n` µs. -/
def ageTimers (n : Nat) (s : State) : State :=
  ((((((s.modZbc fun z => { z with joinTimer := runDown n z.joinTimer, startIn := z.startIn - n }).modPlt
    (ageRows n)).modSru (ageWait n s.waitLimitUs s.bq.hold)).modBq (ageBodies n)).modSsq
    (ageSpots n s.bq.hold)).modSgl (ageLink n))

/-- `n` µs pass in which nothing but time acts: the timers run, and the start bit of a chosen slot is sent when its
moment comes (R2). -/
def elapse (n : Nat) (s : State) : State :=
  if n = 0 then s
  else if s.zbc.startIn ≤ n then sendStart (ageTimers n s) else ageTimers n s

end Sys2Proof.Machine
end

