-- ==== Sys2Proof/Machine/Stage.lean ====
section
/-! DEFINITION. The stage link's frames, the Weld Monitor's work on a pulse, and entry to, exit from and abort of a
current profile (chapters 6 and 7), as far as they change the Current Profile Generator, the Weld Monitor and the
Stage Link alone. -/

namespace Sys2Proof.Machine

/-! ### Setpoint frames -/

/-- R191: the check byte: exclusive OR of the bytes before it, complemented. -/
def checkByte (bs : List Byte) : Byte := ~~~(bs.foldl (· ^^^ ·) 0)

/-- R144, R191: the setpoint frame: update number, fire enable and setpoint, check. -/
def setpointFrame (num setpoint : Nat) : List Byte :=
  let head := byte num :: bytes2 ((if 0 < setpoint then 32768 else 0) + setpoint)
  head ++ [checkByte head]

/-- R144: a setpoint frame is sent: the next number is used, the answered mark cleared, the next update due in
0.5 ms. -/
def sendFrame (setpoint : Nat) (g : Sgl) : Sgl :=
  { g with lastFrame := setpointFrame g.nextNum setpoint, nextNum := (g.nextNum + 1) % 256, answered := false,
           updateIn := Config.updateUs }

/-- R125, R144: the CPG's setpoint of this update and its phase count, and the frame that carries it. -/
def sendSetpoint (v : Nat) (s : State) : State :=
  (s.modCpg fun c => { c with setpoint := v, count := c.count + 1 }).modSgl (sendFrame v)

/-- R144: the stage link enters ACTIVE. -/
def activate (g : Sgl) : Sgl := { g with link := .active, missing := 0, status := none, answered := false }

/-- R148: the stage link leaves ACTIVE for IDLE; in FAULT it is left to R147. -/
def leaveActive (g : Sgl) : Sgl := if g.link = .active then { g with link := .idle, updateIn := 0 } else g

/-- R147: FAULT ends at the closing of the spot. -/
def endFault (g : Sgl) : Sgl := if g.link = .fault then { g with link := .idle, updateIn := 0 } else g

/-- R144: the number of the latest setpoint frame sent. -/
def latestNum (g : Sgl) : Nat := (g.nextNum + 255) % 256

/-! ### The Weld Monitor -/

/-- R151: the spot items as at reset. -/
def clearSpotResults (m : Wmn) : Wmn :=
  { m with results := List.replicate 9 .noResult, worst := .ok, lastMean := 0, lastRes := 0 }

/-- R152: pulse number `i` begins with target `g`. -/
def startPulseRecord (i g : Nat) (c : Schedule) (m : Wmn) : Wmn :=
  { m with pulseIdx := i, len := 2 * c.pulse, blank := 2 * c.pulse * c.blank / 128, pos := 0, iSum := 0, vSum := 0,
           judged := 0, noneBelow := g / 8, lowBelow := g * c.windowLow / 100,
           highAbove := ceilDiv (g * c.windowHigh) 100 }

/-- R153: a sample of the present position: summed unless blanked. -/
def takeSample (i v : Nat) (m : Wmn) : Wmn :=
  if m.blank < m.pos then { m with iSum := m.iSum + i, vSum := m.vSum + v, judged := m.judged + 1 } else m

/-- R154: the mean current of the pulse, 0 without judged samples. -/
def meanCurrent (m : Wmn) : Nat := if m.judged = 0 then 0 else m.iSum / m.judged

/-- R154: the mean voltage of the pulse. -/
def meanVoltage (m : Wmn) : Nat := if m.judged = 0 then 0 else m.vSum / m.judged

/-- R154: the result of the pulse. -/
def pulseJudgement (m : Wmn) : Worst :=
  if m.judged = 0 then .none
  else if meanCurrent m < m.noneBelow then .none
  else if meanCurrent m < m.lowBelow then .low
  else if m.highAbove < meanCurrent m then .high
  else .ok

/-- R158: the resistance of the pulse in µΩ. -/
def pulseResistance (m : Wmn) : Nat :=
  if meanCurrent m = 0 then 65535 else min 65535 (1000 * meanVoltage m / meanCurrent m)

/-- R157: severity, NONE over HIGH over LOW over OK. -/
def severity : Worst → Nat
  | .ok => 0 | .low => 1 | .high => 2 | .none => 3

/-- R157: the more severe of two results. -/
def moreSevere (a b : Worst) : Worst := if severity a < severity b then b else a

/-- R157: whether the result of the extension pulse, number `pulses` + 1, has replaced the one before it. -/
def extensionJudged (pulses : Nat) (results : List PulseResult) : Bool :=
  match results.getD pulses .noResult with
  | .judged _ => true
  | .cut | .noResult => false

/-- R157: the result of pulse `i` (from 1) as far as it counts for the spot. -/
def countedResult (pulses : Nat) (results : List PulseResult) (i : Nat) : Worst :=
  match results.getD (i - 1) .noResult with
  | .judged r => if i = pulses ∧ extensionJudged pulses results then .ok else r
  | .cut | .noResult => .ok

/-- R157: the worst result of the spot, over pulses 1..9. -/
def worstOf (pulses : Nat) (results : List PulseResult) : Worst :=
  (List.range 9).foldl (fun w i => moreSevere w (countedResult pulses results (i + 1))) .ok

/-- R154: the pulse is judged: its result, the worst result, last mean and last resistance. -/
def judgePulse (pulses : Nat) (m : Wmn) : Wmn :=
  let results := m.results.set (m.pulseIdx - 1) (.judged (pulseJudgement m))
  { m with results := results, worst := worstOf pulses results, lastMean := meanCurrent m,
           lastRes := pulseResistance m }

/-- R156: the pulse in progress is cut short. -/
def cutPulse (m : Wmn) : Wmn :=
  { m with results := m.results.set (m.pulseIdx - 1) .cut, iSum := 0, vSum := 0, judged := 0 }

/-! ### The spot of the Current Profile Generator -/

/-- The schedule of the CPG's spot in hand. -/
def State.cpgSchedule (s : State) : Schedule :=
  match s.cpg.spot with
  | some h => scheduleOf s.pst h.sched
  | none => absentSchedule

/-- R122: the CPG takes a spot over: boosted target, cleared spot state, PRESTART. -/
def takeSpot (sched boost level : Nat) (c : Cpg) : Cpg :=
  { c with phase := .prestart, spot := some { sched := sched, boost := boost }, g := boostedTarget level boost,
           setpoint := 0, count := 0, pulseIdx := 0, extUsed := false, begun := false, abort := none,
           slotLost := false }

/-- R122, R126, R144, R151: entry to PRESTART: the first update of the spot is sent at once, with setpoint 0. -/
def enterPrestart (sched boost : Nat) (s : State) : State :=
  sendSetpoint 0 (((s.modCpg (takeSpot sched boost (scheduleOf s.pst sched).level)).modWmn clearSpotResults).modSgl
    activate)

/-- R128, R135: the CPG returns to OFF with no spot in hand, keeping G, W and the pulse count (log 15). -/
def cpgOff (c : Cpg) : Cpg :=
  { c with phase := .off, spot := none, setpoint := 0, count := 0, begun := false, abort := none, slotLost := false }

/-- R128, R148: the spot leaves PRESTART without current: OFF, and the stage link leaves ACTIVE. -/
def standDown (s : State) : State := (s.modCpg cpgOff).modSgl leaveActive

/-- R136: a phase in which an abort order is taken. -/
def abortable : Phase → Bool
  | .upslope | .pulse | .cool | .downslope => true
  | .off | .prestart | .aborting => false

/-- R136: the abort is taken: cause, path and S0 are fixed and the CPG enters ABORTING. -/
def enterAborting (cause : Cause) (path : AbortPath) (c : Cpg) : Cpg :=
  { c with phase := .aborting, count := 0, abort := some { cause := cause, path := path, s0 := c.setpoint } }

/-- R136, R139, R156: an abort order: taken during current, cutting a pulse in progress short; without effect in
OFF, PRESTART and ABORTING. An order of the moment at which a pulse ends, taken before that update, cuts the pulse too:
R156 has the pulse in progress up to the update, and has an abort at the update not cut it (DESIGN CHOICE, log 39). -/
def takeAbort (cause : Cause) (path : AbortPath) (s : State) : State :=
  if abortable s.cpg.phase then
    (if s.cpg.phase = .pulse then s.modWmn cutPulse else s).modCpg (enterAborting cause path)
  else s

/-- R136: an abort order on the abort path of the image. -/
def orderAbort (cause : Cause) (s : State) : State := takeAbort cause s.settings.abortPath s

/-- R127, R133: the own row's lapse remaining as a count of whole updates, rounded up. -/
def State.lapseUpdates (s : State) : Nat :=
  match s.ownRow with
  | some r => ceilDiv (2 * r.lapse) Config.usPerMs
  | none => 0

/-- R149: the stage is ready. -/
def stageReady (g : Sgl) : Bool :=
  match g.status with
  | some t => t.ready && !t.overtemp && !t.supplyLow
  | none => false

/-- R150: a status with a fault flag. -/
def stageFault (t : StageStatus) : Bool := t.overtemp || t.supplyLow

end Sys2Proof.Machine
end

