-- ==== Sys2Proof/Machine/Sequencer.lean ====
section
/-! DEFINITION. The Spot Sequencer (chapter 5) with the head of the Body Queue it works: activation, the walk through
the plan, the closing of a spot, the end of a body, and what it does on a grant, a lost slot, a timeout, a zone hold
and an end of current. -/

namespace Sys2Proof.Machine

/-! ### Reports and plan entries -/

/-- R85: a plan entry takes an outcome and its cause. -/
def setOutcome (i : Nat) (o : Outcome) (c : Cause) (q : Ssq) : Ssq :=
  { q with plan := q.plan.modify i fun e => { e with outcome := o, cause := c } }

/-- R107: a spot with a final outcome leaves the deferred list. -/
def leaveDeferred (i : Nat) (q : Ssq) : Ssq := { q with deferred := q.deferred.filter fun j => decide (j ≠ i) }

/-- R85, R107: a plan entry takes a final outcome. -/
def resolveEntry (i : Nat) (o : Outcome) (c : Cause) (q : Ssq) : Ssq := leaveDeferred i (setOutcome i o c q)

/-- R102: the SPOT-DONE of a plan entry. -/
def reportSpot (i : Nat) (res : SpotResult) (early : Bool) (s : State) : State :=
  match s.ssq.plan[i]?, s.ssq.active with
  | some e, some b => generate (.spotDone b.serial b.zoneSeq e.spotId s.ssq.pass e.outcome e.cause res early) s
  | _, _ => s

/-- R109: the BODY-DONE of the active body. -/
def reportBody (nowork exited : Bool) (s : State) : State :=
  match s.ssq.active with
  | none => s
  | some b =>
    generate (.bodyDone b.serial b.zoneSeq b.style b.program nowork exited (outcomeCount s.ssq.plan .good)
      (outcomeCount s.ssq.plan .suspect) (outcomeCount s.ssq.plan .aborted) (outcomeCount s.ssq.plan .missed)
      s.bodyE) s

/-- R110: the move timer opens at 0 with the late mark clear. -/
def openMove (q : Ssq) : Ssq := { q with moveTimer := 0, moveOpen := true, late := false }

/-! ### Walking the plan -/

/-- R90: the entry at the cursor is resolved MISSED BAD_SCHEDULE and closed; the cursor moves on (R91, R110). -/
def missBadSchedule (s : State) : State :=
  (reportSpot s.ssq.cursor noCurrentResult false
    (s.modSsq (setOutcome s.ssq.cursor .missed .badSchedule))).modSsq
    fun q => openMove { q with cursor := q.cursor + 1 }

/-- R90: from the cursor on, entries with an UNUSABLE schedule are closed until a USABLE one or the end of MAIN;
`n` bounds the entries left. -/
def walkPlan (n : Nat) (s : State) : State :=
  match n with
  | 0 => s
  | n + 1 =>
    match s.ssq.plan[s.ssq.cursor]? with
    | none => s
    | some e => if (scheduleOf s.pst e.sched).mark = .usable then s else walkPlan n (missBadSchedule s)

/-- R90: AWAIT_GUN for the expected spot. -/
def awaitGun (s : State) : State := s.modSsq fun q => { q with state := .awaitGun }

/-- R58: the head record leaves the Body Queue. -/
def removeHead (b : Bq) : Bq := { b with queue := b.queue.tail }

/-- R84, R108: IDLE with no active body. E and the move timer stop where they stand, and so does the pass: R84 and
R193 give it no value in IDLE, and after a body that ended in REVISIT it reads REVISIT up to the next activation
(DESIGN CHOICE, log 32). -/
def ssqIdle (q : Ssq) : Ssq :=
  { q with state := .idle, active := none, plan := [], cursor := 0, deferred := [], ending := false, inHand := none,
           moveOpen := false }

/-- R58, R88, R108, R120: the active body ends: BODY-DONE, the head removed, IDLE. -/
def endBody (nowork exited : Bool) (s : State) : State :=
  ((reportBody nowork exited s).modBq removeHead).modSsq ssqIdle

/-- R86, R87: the active body and its plan, from the head record. -/
def activeFrom (p : Pst) (r : BodyRecord) (q : Ssq) : Ssq :=
  { q with pass := .main, cursor := 0, deferred := [], ending := false, inHand := none, bodyTime := 0,
           active := some { serial := r.serial, zoneSeq := r.zoneSeq, style := r.style, options := r.options,
                            program := styleProgram p r.style },
           plan := match styleProgram p r.style with
             | none => []
             | some n => (spotList p n r.options).map (planEntryOf p) }

/-- R89: PROGRAM-START, and the move timer opened for the first spot. -/
def programStart (s : State) : State :=
  match s.ssq.active with
  | none => s
  | some b =>
    (generate (.programStart b.serial b.zoneSeq b.style (b.program.getD 255) s.ssq.plan.length
      (s.ssq.plan.head?.map PlanEntry.spotId |>.getD 0)) s).modSsq openMove

/-- R55, R58, R86 to R90: the head record is offered to an IDLE sequencer. A NOWORK body, or one whose every entry has
an UNUSABLE schedule, ends in its activation and the next head is offered; `n` bounds the bodies left. -/
def offerHead (n : Nat) (s : State) : State :=
  match n with
  | 0 => s
  | n + 1 =>
    match s.bq.queue with
    | [] => s
    | r :: _ =>
      let s1 := s.modSsq (activeFrom s.pst r)
      if s1.ssq.plan = [] then offerHead n (endBody true false s1)
      else
        let s2 := walkPlan s1.ssq.plan.length (programStart s1)
        if s2.ssq.cursor < s2.ssq.plan.length then awaitGun s2 else offerHead n (endBody false false s2)

/-- R55, R58: whatever the Body Queue holds is offered. -/
def offerQueue (s : State) : State := offerHead s.bq.queue.length s

/-- R106: MAIN is over with deferred spots: the pass becomes REVISIT and REVISIT-START is queued. -/
def startRevisit (s : State) : State :=
  match s.ssq.active with
  | none => s
  | some b =>
    (generate (.revisitStart b.serial b.zoneSeq
      (s.ssq.deferred.map fun i => (s.ssq.plan[i]?.map PlanEntry.spotId).getD 0)) s).modSsq
      fun q => { q with pass := .revisit, moveOpen := false }

/-- R90, R107, R108: the sequencer steps to its next expected spot, begins REVISIT, or completes the body. -/
def stepPlan (s : State) : State :=
  let s1 := walkPlan (s.ssq.plan.length - s.ssq.cursor) s
  if s1.ssq.cursor < s1.ssq.plan.length then awaitGun s1
  else if s1.ssq.deferred = [] then offerQueue (endBody false false s1)
  else if s1.ssq.pass = .main then awaitGun (startRevisit s1)
  else awaitGun s1

/-! ### Closing a spot -/

/-- R91, R120: after the spot in hand is closed: an ending body ends; else MAIN opens the move timer and moves on,
REVISIT steps. -/
def afterClose (s : State) : State :=
  if s.ssq.ending then offerQueue (endBody false true s)
  else match s.ssq.pass with
    | .main => stepPlan (s.modSsq fun q => openMove { q with cursor := q.cursor + 1 })
    | .revisit => stepPlan s

/-- R91: the spot in hand is closed: SPOT-DONE, the visit at its end, the stage link out of FAULT (R147). -/
def closeSpot (s : State) : State :=
  match s.ssq.inHand with
  | none => s
  | some h =>
    let s1 := endVisit (reportSpot h.planIdx (h.result.getD noCurrentResult) h.earlyOpen s)
    afterClose ((s1.modSgl endFault).modSsq fun q => { q with inHand := none })

/-- R97, R100, R117: the spot in hand is resolved without current and closed at once. -/
def closeResolved (o : Outcome) (c : Cause) (s : State) : State :=
  match s.ssq.inHand with
  | none => s
  | some h => closeSpot (s.modSsq (resolveEntry h.planIdx o c))

/-- R105: the deferral of the spot in hand in MAIN, or MISSED DEFER_FULL with a full list. -/
def deferSpot (s : State) : State :=
  match s.ssq.inHand with
  | none => s
  | some h =>
    if s.ssq.deferred.length < Config.deferredMax then
      closeSpot (s.modSsq fun q =>
        { setOutcome h.planIdx .deferred .claimTimeout q with deferred := q.deferred ++ [h.planIdx] })
    else closeResolved .missed .deferFull s

/-- R97, R105: the claim of the spot in hand has timed out. -/
def claimTimedOut (s : State) : State :=
  if s.ssq.state = .squeeze then
    match s.ssq.pass with
    | .main => deferSpot s
    | .revisit => closeResolved .missed .claimTimeout s
  else s

/-- R43: the expiry of the claim-wait timer acts in WAITING. -/
def timeOutClaim (s : State) : State := claimTimedOut (dropClaim s)

/-! ### Requests, grants and firing -/

/-- The schedule of a plan entry. -/
def State.planSchedule (s : State) (i : Nat) : Schedule :=
  match s.ssq.plan[i]? with
  | some e => scheduleOf s.pst e.sched
  | none => absentSchedule

/-- R33: the request for the spot in hand. -/
def requestFor (s : State) (e : PlanEntry) (b : ActiveBody) (i : Nat) : Request :=
  { planIdx := i, spotId := e.spotId, sched := e.sched, pass := s.ssq.pass, zoneSeq := b.zoneSeq,
    visit := s.sru.visit }

/-- R32: the oversize test of the first request of a visit. -/
def State.oversize (s : State) (sched : Nat) : Bool :=
  decide (s.sru.visitRequested = false ∧ s.effectiveLimit < s.boostedLoadOf sched)

/-- R33, R95: the SSQ raises its slot request; an oversize spot is resolved at once (R32, R97). -/
def raiseRequest (s : State) : State :=
  match s.ssq.inHand, s.ssq.active with
  | some h, some b =>
    match s.ssq.plan[h.planIdx]? with
    | none => s
    | some e =>
      if s.oversize e.sched then closeResolved .missed .oversize s
      else callArbitration (s.modSru (standRequest (requestFor s e b h.planIdx)))
  | _, _ => s

/-- R95: whether the remaining squeeze is not greater than the claim lead and no request stands. -/
def State.requestDue (s : State) : Bool :=
  decide (s.ssq.state = .squeeze ∧ s.sru.request = none ∧ s.squeezeLeft ≤ s.leadUs)

/-- R96, R122: the SSQ enters FIRING and hands the spot, with the boost of the grant, to the CPG. -/
def enterFiring (s : State) : State :=
  match s.ssq.inHand with
  | none => s
  | some h =>
    match s.ssq.plan[h.planIdx]? with
    | none => s
    | some e =>
      enterPrestart e.sched ((s.sru.record.map PendingClaim.boost).getD 0)
        (s.modSsq fun q => { q with state := .firing })

/-- R96: squeeze complete and claim GRANTED, whichever comes second, unless the zone is held. -/
def fireIfReady (s : State) : State :=
  if s.ssq.state = .squeeze ∧ s.sru.claim = .granted ∧ s.squeezeLeft = 0 ∧ s.bq.hold = false then enterFiring s else s

/-- R96, R114: the SSQ takes the grant: firing once the squeeze is complete; under a zone hold, a release order. -/
def takeGrant (s : State) : State :=
  if s.ssq.state = .squeeze ∧ s.bq.hold then releaseOrder s else fireIfReady s

/-! ### Ends of current and of PRESTART -/

/-- R99: outcome and cause at current end. -/
def outcomeAtEnd (abort : Option AbortRecord) (worst : Worst) : Outcome × Cause :=
  match abort with
  | some a => (.aborted, a.cause)
  | none => if worst = .ok then (.good, .none) else (.suspect, .none)

/-- R101: entry to HOLD; it ends in the same event with a hold of 0 ms or the early-open mark set. -/
def enterHold (holdMs : Nat) (s : State) : State :=
  let s1 := s.modSsq fun q =>
    { q with state := .hold, inHand := q.inHand.map fun h => { h with holdLeft := holdMs * Config.usPerMs } }
  match s1.ssq.inHand with
  | some h => if h.earlyOpen ∨ h.holdLeft = 0 then closeSpot s1 else s1
  | none => s1

/-- R159: what the CPG and the WMN hand over at current end. -/
def State.spotResult (s : State) : SpotResult :=
  { worst := s.wmn.worst, mean := s.wmn.lastMean, res := s.wmn.lastRes, pulses := s.cpg.pulseIdx,
    ext := s.cpg.extUsed }

/-- R99, R135, R140: current end: the release order, the outcome of the spot, the end of the visit, the CPG OFF, the
stage link out of ACTIVE, and HOLD. -/
def currentEnd (s : State) : State :=
  match s.ssq.inHand with
  | none => standDown (releaseOrder s)
  | some h =>
    let o := outcomeAtEnd s.cpg.abort s.wmn.worst
    let s1 := (releaseOrder s).modSsq fun q =>
      { resolveEntry h.planIdx o.1 o.2 q with inHand := some { h with result := some s.spotResult } }
    enterHold (s.planSchedule h.planIdx).hold (standDown (endVisit s1))

/-- R100, R128: give-up or LINK fault in PRESTART: the CPG orders the release, the spot is MISSED STAGE. -/
def giveUp (s : State) : State := closeResolved .missed .stage (standDown (releaseOrder s))

/-- R100: the SSQ ends the spot in PRESTART: the CPG leaves it, the claim is released at the closing (R44, R45). -/
def endPrestart (c : Cause) (s : State) : State := closeResolved .missed c (standDown s)

/-- R46, R97, R100, R142: the slot is lost while GRANTED. -/
def slotLost (s : State) : State :=
  match s.ssq.state, s.cpg.phase with
  | .firing, .prestart => endPrestart .stage s
  | .firing, .off => s
  | .firing, _ => (takeAbort .stage .cut s).modCpg fun c => { c with slotLost := true }
  | _, _ => s

/-! ### Zone hold -/

/-- R114 to R116: the zone hold flag is set. -/
def holdSet (s : State) : State :=
  match s.ssq.state with
  | .squeeze =>
    if s.sru.claim = .granted then
      if s.zbc.node = .silent then closeResolved .missed .halted s else releaseOrder s
    else s
  | .firing =>
    if s.cpg.phase = .prestart then
      if s.zbc.node = .silent then endPrestart .halted s
      else (releaseOrder (standDown s)).modSsq fun q => { q with state := .squeeze }
    else orderAbort .halted s
  | .idle => s
  | .awaitGun => s
  | .hold => s

/-- R114: the flag clears: a spot in SQUEEZE squeezes again in full, its request cancelled where that leaves more
than the claim lead; R49: the SRU calls for an arbitration start. Where the line is idle, R68, R49 and R114 do not say
which of the two comes first: here the squeeze stands at its full length before the arbitration start, so a CLAIM
chosen there takes its lapse from the full squeeze (R37; DESIGN CHOICE, log 37). -/
def holdCleared (s : State) : State :=
  if s.ssq.state = .squeeze then
    match s.ssq.inHand with
    | none => callArbitration s
    | some h =>
      let full := (s.planSchedule h.planIdx).squeeze * Config.usPerMs
      let s1 := s.modSsq fun q => { q with inHand := some { h with squeezeLeft := full } }
      callArbitration (if s.leadUs < full ∧ s.sru.request.isSome then cancelRequest s1 else s1)
  else callArbitration s

/-! ### The end of the active body from outside -/

/-- R117: every PENDING or DEFERRED entry but the spot in hand is MISSED EXITED, and leaves the deferred list. -/
def missOthers (keep : Option Nat) (q : Ssq) : Ssq :=
  { q with plan := q.plan.mapIdx fun i e =>
             if some i ≠ keep ∧ (e.outcome = .pending ∨ e.outcome = .deferred) then
               { e with outcome := .missed, cause := .exited } else e,
           deferred := q.deferred.filter fun i => decide (some i = keep),
           ending := true }

/-- R117, R118: EXIT or ABANDON of the active body. -/
def endActive (s : State) : State :=
  if s.ssq.ending then s
  else
    let s1 := s.modSsq (missOthers (s.ssq.inHand.map SpotInHand.planIdx))
    match s.ssq.state with
    | .idle => s
    | .awaitGun => offerQueue (endBody false true s1)
    | .squeeze => closeResolved .missed .exited s1
    | .firing => if s.cpg.phase = .prestart then endPrestart .exited s1 else orderAbort .exited s1
    | .hold => s1

/-! ### Motion records -/

/-- R92: the spot at plan index `i` becomes the spot in hand and the SSQ enters SQUEEZE. -/
def acceptSpot (i squeezeMs : Nat) (q : Ssq) : Ssq :=
  { q with state := .squeeze, moveOpen := false,
           inHand := some { planIdx := i, squeezeLeft := squeezeMs * Config.usPerMs, holdLeft := 0,
                            earlyOpen := false, result := none } }

/-- R111: the sample of the move timer is learned for a record. -/
def learnSample (recIdx : Nat) (q : Ssq) : Ssq :=
  let sample := max 1 (min 65535 (q.moveTimer / Config.usPerTen))
  { q with learned := setSparse q.learned recIdx (learnMove (q.learned.getD recIdx 0) sample) }

/-- R92, R95: acceptance of the spot at plan index `i`: a new visit, SQUEEZE, and the request where the squeeze is
not longer than the claim lead. -/
def acceptGun (i : Nat) (s : State) : State :=
  let s1 := beginVisit (s.modSsq (acceptSpot i (s.planSchedule i).squeeze))
  if s1.squeezeLeft ≤ s1.leadUs then raiseRequest s1 else s1

/-- R93: the entries from the cursor up to a named one are MISSED SKIPPED, each with its SPOT-DONE. -/
def skipEntries (n : Nat) (s : State) : State :=
  match n with
  | 0 => s
  | n + 1 =>
    skipEntries n ((reportSpot s.ssq.cursor noCurrentResult false
      (s.modSsq (setOutcome s.ssq.cursor .missed .skipped))).modSsq fun q => { q with cursor := q.cursor + 1 })

/-- R93: the skip-ahead to plan index `i`. -/
def skipAhead (i : Nat) (s : State) : State :=
  let s1 := skipEntries (i - s.ssq.cursor) s
  if (s1.planSchedule i).mark = .usable then acceptGun i s1 else stepPlan (missBadSchedule s1)

/-- R94: SPOT_MISMATCH with the spot id as written. -/
def refuseGun (spot : Nat) (s : State) : State := raiseWord .spotMismatch spot s

/-- R92, R93: GUN-CLOSED in AWAIT_GUN of MAIN, for the plan index its spot id names. -/
def gunClosedMain (i : Nat) (e : PlanEntry) (spot : Nat) (s : State) : State :=
  if i = s.ssq.cursor then
    acceptGun i (if s.ssq.moveOpen then s.modSsq (learnSample e.recIdx) else s)
  else if s.ssq.cursor < i ∧ e.outcome = .pending then skipAhead i s
  else refuseGun spot s

/-- R92 to R94: GUN-CLOSED. -/
def gunClosed (spot : Nat) (s : State) : State :=
  if s.ssq.state ≠ .awaitGun then refuseGun spot s
  else
    match s.ssq.plan.findIdx? fun e => decide (e.spotId = spot) with
    | none => refuseGun spot s
    | some i =>
      match s.ssq.plan[i]?, s.ssq.pass with
      | none, _ => refuseGun spot s
      | some e, .main => gunClosedMain i e spot s
      | some _, .revisit => if s.ssq.deferred.head? = some i then acceptGun i s else refuseGun spot s

/-- R103: the early-open mark of the spot in hand. -/
def markEarlyOpen (q : Ssq) : Ssq := { q with inHand := q.inHand.map fun h => { h with earlyOpen := true } }

/-- R103: GUN-OPEN. -/
def gunOpened (s : State) : State :=
  match s.ssq.state with
  | .idle => s
  | .awaitGun => s
  | .squeeze => (endVisit s).modSsq fun q => { q with state := .awaitGun, inHand := none }
  | .firing =>
    if s.cpg.phase = .prestart then endPrestart .gunOpened (s.modSsq markEarlyOpen)
    else orderAbort .gunOpened (s.modSsq markEarlyOpen)
  | .hold => closeSpot (s.modSsq markEarlyOpen)

/-- R14, R123: W takes a value; a change while the claim is WAITING calls for an arbitration start. -/
def setWeldCount (w : Nat) (s : State) : State :=
  let s1 := s.modCpg fun c => { c with w := w }
  if w ≠ s.cpg.w ∧ s.sru.claim = .waiting then callArbitration s1 else s1

/-! ### The robot's lateness -/

/-- R90, R107: the plan index of the expected spot. -/
def State.expectedIdx (s : State) : Option Nat :=
  match s.ssq.pass with
  | .main => some s.ssq.cursor
  | .revisit => s.ssq.deferred.head?

/-- R112: the µs of the move timer at which ROBOT_LATE falls due, where it can. -/
def State.lateAt (s : State) : Option Nat :=
  if s.ssq.state = .awaitGun ∧ s.ssq.pass = .main ∧ s.ssq.moveOpen ∧ s.ssq.late = false then
    match s.ssq.plan[s.ssq.cursor]? with
    | none => none
    | some e =>
      if s.ssq.learned.getD e.recIdx 0 = 0 then none
      else some (lateThreshold (s.ssq.learned.getD e.recIdx 0) s.settings.lateMargin * Config.usPerTen)
  else none

/-- R112: ROBOT_LATE for the expected spot, once for the move. -/
def raiseLate (s : State) : State :=
  match s.ssq.plan[s.ssq.cursor]? with
  | none => s
  | some e => (raiseWord .robotLate e.spotId s).modSsq fun q => { q with late := true }

end Sys2Proof.Machine
end

