-- ==== Sys2Proof/Machine/Profile.lean ====
section
/-! DEFINITION. The update of the stage link (chapters 6 and 7): the missing answer, the setpoint of each phase, the
end of a pulse, the extension, the end of current and the LINK fault; and the sample frame that answers it. -/

namespace Sys2Proof.Machine

/-! ### Setpoint formulas -/

/-- R129, R130: the setpoint at update `k` of UPSLOPE with `n` updates, from the setpoint before it. -/
def upslopeSetpoint (shape g n k prev : Nat) : Nat :=
  if k = n then g
  else if shape = 0 then g * k / n
  else prev + ceilDiv (g - prev) 8

/-- R134: the setpoint at update `k` of DOWNSLOPE with `n` updates. -/
def downslopeSetpoint (g endPercent n k : Nat) : Nat := g - (g - g * endPercent / 100) * k / n

/-- R138: the setpoint at update `k` of the RAMP path. -/
def rampSetpoint (s0 k : Nat) : Nat := s0 - s0 * k / Config.rampUpdates

/-! ### Phases -/

/-- R131, R152, R153: PULSE begins: the pulse index rises, the WMN starts the pulse, and the update carries G as
position 1. -/
def beginPulse (s : State) : State :=
  let s1 := s.modCpg fun c => { c with phase := .pulse, count := 0, pulseIdx := c.pulseIdx + 1 }
  sendSetpoint s.cpg.g (s1.modWmn fun m =>
    { startPulseRecord s1.cpg.pulseIdx s.cpg.g s.cpgSchedule m with pos := 1 })

/-- R132: COOL begins, passed through with a cool of 0 ms. -/
def beginCool (s : State) : State :=
  if s.cpgSchedule.cool = 0 then beginPulse s
  else sendSetpoint 0 (s.modCpg fun c => { c with phase := .cool, count := 0 })

/-- R135: the update of current end carries 0. -/
def finishCurrent (s : State) : State := currentEnd (sendSetpoint 0 s)

/-- R134: update `k` of DOWNSLOPE. -/
def downslopeUpdate (s : State) : State :=
  let c := s.cpgSchedule
  if s.cpg.count < 2 * c.downslope then
    sendSetpoint (downslopeSetpoint s.cpg.g c.endPercent (2 * c.downslope) (s.cpg.count + 1)) s
  else finishCurrent s

/-- R134: DOWNSLOPE begins; with a downslope of 0 ms its first update is current end. -/
def beginDownslope (s : State) : State := downslopeUpdate (s.modCpg fun c => { c with phase := .downslope, count := 0 })

/-- R129, R130: an update of UPSLOPE; after its last the first pulse begins. -/
def upslopeUpdate (s : State) : State :=
  let c := s.cpgSchedule
  if s.cpg.count < 2 * c.upslope then
    sendSetpoint (upslopeSetpoint c.shape s.cpg.g (2 * c.upslope) (s.cpg.count + 1) s.cpg.setpoint) s
  else beginPulse s

/-- R127: the profile begins with UPSLOPE, passed through with an upslope of 0 ms. -/
def beginProfile (s : State) : State := upslopeUpdate (s.modCpg fun c => { c with phase := .upslope, count := 0 })

/-- R137, R138, R142: an update of ABORTING: CUT, a lost slot, or the eighth of a RAMP ends the current with 0. -/
def abortUpdate (s : State) : State :=
  match s.cpg.abort with
  | none => finishCurrent s
  | some a =>
    if a.path = .cut ∨ s.cpg.slotLost then finishCurrent s
    else if s.cpg.count + 1 < Config.rampUpdates then sendSetpoint (rampSetpoint a.s0 (s.cpg.count + 1)) s
    else finishCurrent s

/-! ### Current begins -/

/-- R123, R124: W rises by 1, saturating, and TIP_DRESS_DUE is raised where it reaches the dress limit. -/
def countSpot (s : State) : State :=
  let w := min 65535 (s.cpg.w + 1)
  let s1 := setWeldCount w s
  if w ≠ s.cpg.w ∧ w = s.pst.dressLimit ∧ s.pst.dressLimit ≠ 0 then raiseWord .tipDressDue w s1 else s1

/-- R127: current begins at this update. -/
def beginCurrent (s : State) : State := beginProfile ((countSpot s).modCpg fun c => { c with begun := true })

/-- R127: B, in updates. -/
def profileBudget (c : Schedule) : Nat := 2 * (profileMs c + reserveMs c + Config.guardMs)

/-- R127: an update in PRESTART after the first. -/
def prestartUpdate (s : State) : State :=
  if s.lapseUpdates < profileBudget s.cpgSchedule then giveUp (sendSetpoint 0 s)
  else if stageReady s.sgl then beginCurrent s
  else sendSetpoint 0 s

/-! ### The end of a pulse -/

/-- R155: the abort cause of a result, under the ABORT action. -/
def resultAbort (action : Nat) (r : Worst) : Option Cause :=
  if action = 1 then
    match r with
    | .high => some .high
    | .none => some .noCurrent
    | .low => none
    | .ok => none
  else none

/-- R133: the extension is taken. -/
def State.extends (s : State) (r : Worst) : Bool :=
  let c := s.cpgSchedule
  decide (r = .low ∧ c.retry = 1 ∧ s.cpg.extUsed = false ∧
    2 * (c.cool + c.pulse + c.downslope + Config.guardMs) ≤ s.lapseUpdates)

/-- R131, R133: the phase that follows a pulse that ended without an abort. -/
def afterPulse (r : Worst) (s : State) : State :=
  let c := s.cpgSchedule
  if s.cpg.pulseIdx < c.pulses then beginCool s
  else if s.cpg.pulseIdx = c.pulses ∧ s.extends r then beginCool (s.modCpg fun q => { q with extUsed := true })
  else beginDownslope s

/-- R154: the pulse that has ended is judged. -/
def judge (s : State) : State := s.modWmn (judgePulse s.cpgSchedule.pulses)

/-- R131, R154, R155: the update at which a pulse ends. -/
def pulseEnd (s : State) : State :=
  let r := pulseJudgement s.wmn
  let s1 := judge s
  match resultAbort s.cpgSchedule.action r with
  | some cause => abortUpdate (s1.modCpg (enterAborting cause s.settings.abortPath))
  | none => afterPulse r s1

/-- R131, R153: an update of PULSE, or the update that ends it. -/
def pulseUpdate (s : State) : State :=
  if s.cpg.count < 2 * s.cpgSchedule.pulse then
    sendSetpoint s.cpg.g (s.modWmn fun m => { m with pos := m.pos + 1 })
  else pulseEnd s

/-- R132: an update of COOL; after its last the next pulse begins. -/
def coolUpdate (s : State) : State :=
  if s.cpg.count < 2 * s.cpgSchedule.cool then sendSetpoint 0 s else beginPulse s

/-- R125: the setpoint of an update is chosen from the phase. -/
def profileUpdate (s : State) : State :=
  match s.cpg.phase with
  | .off => s
  | .prestart => prestartUpdate s
  | .upslope => upslopeUpdate s
  | .pulse => pulseUpdate s
  | .cool => coolUpdate s
  | .downslope => downslopeUpdate s
  | .aborting => abortUpdate s

/-! ### The LINK fault -/

/-- R147: the stage link enters FAULT with the frame of this update, which carries 0. -/
def enterFault (s : State) : State := (sendSetpoint 0 s).modSgl fun g => { g with link := .fault }

/-- R160: the LINK fault taken first at a pulse end: the abort is taken without cutting the ended pulse short, and
the pulse is judged. -/
def linkThenResult (s : State) : State := judge (s.modCpg (enterAborting .link .cut))

/-- R160: the result taken first at a pulse end: its abort, if it orders one, stands, and the LINK fault finds
ABORTING. Where it orders none, the LINK fault is taken before the extension test of R133, and the extension-used mark
stays as it is: which of the two comes first the rules do not say (DESIGN CHOICE, log 35). -/
def resultThenLink (s : State) : State :=
  let s1 := judge s
  match resultAbort s.cpgSchedule.action (pulseJudgement s.wmn) with
  | some cause => s1.modCpg (enterAborting cause s.settings.abortPath)
  | none => s1.modCpg (enterAborting .link .cut)

/-- R146, R160: the abort a LINK fault finds or takes. At a pulse end the order of result and fault is the free
choice of log 6. -/
def linkAbort (s : State) : State :=
  if s.cpg.phase = .pulse ∧ s.cpg.count = 2 * s.cpgSchedule.pulse then
    let s1 := s.modFree (· + 1)
    if Config.linkFaultFirst s.freeIndex then linkThenResult s1 else resultThenLink s1
  else takeAbort .link .cut s

/-- R146: a LINK fault is found at this update, which carries 0 and ends the spot's current or its PRESTART. -/
def linkFault (s : State) : State :=
  match s.cpg.phase with
  | .off => enterFault s
  | .prestart => giveUp (enterFault s)
  | .upslope => currentEnd (enterFault (linkAbort s))
  | .pulse => currentEnd (enterFault (linkAbort s))
  | .cool => currentEnd (enterFault (linkAbort s))
  | .downslope => currentEnd (enterFault (linkAbort s))
  | .aborting => currentEnd (enterFault s)

/-! ### The update and its answer -/

/-- R146: an unanswered update counts as missing. -/
def countMissing (g : Sgl) : Sgl := if g.answered then g else { g with missing := min Config.linkMissing (g.missing + 1) }

/-- R125, R146, R147: the update of the stage link. In IDLE there is none. -/
def updateStage (s : State) : State :=
  match s.sgl.link with
  | .idle => s
  | .fault => s.modSgl (sendFrame 0)
  | .active =>
    let s1 := s.modSgl countMissing
    if s.sgl.answered = false ∧ s1.sgl.missing = Config.linkMissing then linkFault s1 else profileUpdate s1

/-- R145, R191: a sample frame is accepted: ACTIVE, whole, its check good, echoing the latest number, the first. -/
def sampleAccepted (g : Sgl) (bytes : List Byte) : Bool :=
  decide (g.link = .active ∧ bytes.length = 6 ∧ bytes.getD 5 0 = checkByte (bytes.take 5) ∧
    byteAt bytes 0 = latestNum g ∧ g.answered = false)

/-- R191: the status flags of a sample frame. -/
def sampleStatus (bytes : List Byte) : StageStatus :=
  let b := bytes.getD 1 0
  { ready := b.getLsbD 7, overtemp := b.getLsbD 6, supplyLow := b.getLsbD 5 }

/-- R191: the current sample. -/
def sampleCurrent (bytes : List Byte) : Nat := wordAt bytes 1 % 4096

/-- R191: the voltage sample. -/
def sampleVoltage (bytes : List Byte) : Nat := wordAt bytes 3 % 1024

/-- R145: an accepted frame answers the latest update. -/
def acceptAnswer (t : StageStatus) (g : Sgl) : Sgl := { g with answered := true, missing := 0, status := some t }

/-- R145, R150, R153: a sample frame arrives. -/
def receiveSample (bytes : List Byte) (s : State) : State :=
  if sampleAccepted s.sgl bytes then
    let t := sampleStatus bytes
    let s1 := s.modSgl (acceptAnswer t)
    let s2 := if s.cpg.phase = .pulse then s1.modWmn (takeSample (sampleCurrent bytes) (sampleVoltage bytes)) else s1
    if stageFault t then orderAbort .stage s2 else s2
  else s

end Sys2Proof.Machine
end

