-- ==== Sys2Proof/Machine/Bodies.lean ====
section
/-! DEFINITION. What the Body Queue and the Peer Load Table do with an applied frame (chapters 2 and 3). -/

namespace Sys2Proof.Machine

/-! ### BODY frames -/

/-- R52: a record of the queue carries this serial. -/
def queued (b : Bq) (serial : Nat) : Bool := b.queue.any fun r => decide (r.serial = serial)

/-- R53: the zone sequence test; the last number becomes the frame's in every case. -/
def testSequence (n : Nat) (s : State) : State :=
  let s1 := match s.bq.lastSeq with
    | none => s
    | some l => if n = (l + 1) % 256 then s else raise .bodyGap (byte ((l + 1) % 256)) (byte n) 0 0 s
  s1.modBq fun b => { b with lastSeq := some n }

/-- R63: the base pitch of a history. -/
def meanPitch (history : List Nat) (n : Nat) : Nat := (history.take n).sum / n

/-- R61: the sample of a pitch timer reading in µs, none where it is discarded. -/
def pitchSample (us : Nat) : Option Nat :=
  let units := us / Config.usPerTen
  if 65535 < units then none else some (max 1 units)

/-- R62, R63: a sample enters the history and the base pitch is recomputed. -/
def enterSample (n avg : Nat) (b : Bq) : Bq :=
  let history := n :: b.history.dropLast
  { b with history := history, basePitch := meanPitch history avg }

/-- R60, R61: the pitch event of a BODY frame. -/
def pitchEvent (avg : Nat) (b : Bq) : Bq :=
  let b1 := match b.pitchTimer with
    | none => b
    | some us => match pitchSample us with
      | none => b
      | some n => enterSample n avg b
  { b1 with pitchTimer := some 0 }

/-- R55: a record joins at the tail. -/
def appendBody (serial style : Nat) (options : BitVec 8) (zoneSeq : Nat) (b : Bq) : Bq :=
  { b with queue := b.queue ++ [{ serial := serial, style := style, options := options, zoneSeq := zoneSeq,
                                  arrival := b.arrivalNext, exitTaken := false }],
           arrivalNext := (b.arrivalNext + 1) % 65536 }

/-- R54, R55: the capacity test: the body is dropped from a full queue, or appended, and offered to the Spot
Sequencer where the queue was empty. -/
def admitBody (serial style : Nat) (options : BitVec 8) (zoneSeq : Nat) (s : State) : State :=
  if s.bq.queue.length < Config.queueMax then
    let s1 := s.modBq (appendBody serial style options zoneSeq)
    if s.bq.queue = [] then offerQueue s1 else s1
  else raiseSerial .bodyDropped serial s

/-- R52 to R55: a BODY frame is applied: duplicate, zone sequence, pitch, capacity. -/
def applyBody (serial style : Nat) (options : BitVec 8) (zoneSeq : Nat) (s : State) : State :=
  if queued s.bq serial then raiseSerial .bodyDuplicate serial s
  else admitBody serial style options zoneSeq ((testSequence zoneSeq s).modBq (pitchEvent s.settings.avgN))

/-! ### EXIT frames -/

/-- R57: the BODY-DONE of a body removed behind the head. -/
def exitedReport (r : BodyRecord) : Report := .bodyDone r.serial r.zoneSeq r.style none true true 0 0 0 0 0

/-- R56: the exit of the head is taken. -/
def takeHeadExit (b : Bq) : Bq :=
  match b.queue with
  | [] => b
  | r :: t => { b with queue := { r with exitTaken := true } :: t }

/-- R57: a record behind the head is removed. -/
def removeQueued (serial : Nat) (b : Bq) : Bq :=
  match b.queue with
  | [] => b
  | r :: t => { b with queue := r :: t.eraseP fun x => decide (x.serial = serial) }

/-- R56, R57: an EXIT frame is applied. -/
def applyExit (serial : Nat) (s : State) : State :=
  match s.bq.queue with
  | [] => s
  | r :: t =>
    if r.serial = serial then
      if r.exitTaken then s else endActive (s.modBq takeHeadExit)
    else match t.find? fun x => decide (x.serial = serial) with
      | none => s
      | some x => generate (exitedReport x) (s.modBq (removeQueued serial))

/-! ### Zone hold -/

/-- R65, R66, R67: the cause codes of ZONE_HOLD_CHANGE. -/
def holdCause (code : Nat) (s : State) : State := raise .zoneHoldChange (byte code) 0 0 0 s

/-- R65: the timer a HALT starts, in µs; stopped for 0 seconds. -/
def haltTimer (seconds : Nat) : Option Nat := if seconds = 0 then none else some (seconds * 1000 * Config.usPerMs)

/-- R65, R68: a HALT frame is applied. -/
def applyHalt (seconds : Nat) (s : State) : State :=
  let s1 := s.modBq fun b => { b with hold := true, holdTimer := haltTimer seconds }
  if s.bq.hold then s1 else holdSet (holdCause 1 s1)

/-- R66 to R68: the flag clears, for RESUME (2) or EXPIRY (3). -/
def clearHold (code : Nat) (s : State) : State :=
  holdCleared (holdCause code (s.modBq fun b => { b with hold := false, holdTimer := none }))

/-- R66: a RESUME frame is applied. -/
def applyResume (s : State) : State := if s.bq.hold then clearHold 2 s else s

/-! ### The Peer Load Table -/

/-- R29: a DERATE frame is applied. -/
def applyDerate (feeder percent : Nat) (s : State) : State :=
  if feeder = s.settings.feeder then s.modPlt fun p => { p with derate := clampNat 50 100 percent } else s

/-- R25, R26: the row a CLAIM sets; an own row carries no grace. -/
def rowOfClaim (feeder load lapse zoneSeq spotId prec : Nat) (own : Bool) : Row :=
  { feeder := feeder, load := load, zoneSeq := zoneSeq, spotId := spotId, prec := prec,
    lapse := (lapse * Config.lapseUnitMs + if own then 0 else Config.graceMs) * Config.usPerMs }

/-- R27: a RELEASE clears the row of its sender where feeder and spot id match. -/
def applyRelease (id feeder spotId : Nat) (p : Plt) : Plt :=
  match rowOf p id with
  | none => p
  | some r => if r.feeder = feeder ∧ r.spotId = spotId then setRow id none p else p

/-- R42: the own CLAIM has completed: GRANTED, an expiry void (R43), the grant passed on; with the withdrawn mark
the claim goes on to RELEASING at once (R44, R45). -/
def grantClaim (s : State) : State :=
  if s.sru.claim = .offered then
    let s1 := s.modSru fun u => { u with claim := .granted, withdrawn := false, expiryHeld := false }
    if s.sru.withdrawn then releaseOrder s1 else takeGrant s1
  else s

/-- R9, R12: the owning block applies a completed frame of sender `id`. `own` marks the node's own frame. -/
def applyFrame (own : Bool) (f : Frame) (s : State) : State :=
  let id := f.arb.sender.toNat
  match f.body with
  | .halt seconds => applyHalt seconds.toNat s
  | .resume => applyResume s
  | .body serial style options zoneSeq => applyBody serial.toNat style.toNat options zoneSeq.toNat s
  | .exit serial => applyExit serial.toNat s
  | .derate feeder percent => applyDerate feeder.toNat percent.toNat s
  | .claim feeder load lapse zoneSeq spotId =>
    let s1 := s.modPlt (setRow id (some (rowOfClaim feeder.toNat load.toNat lapse.toNat zoneSeq.toNat spotId.toNat
      f.arb.prec.toNat own)))
    if own then grantClaim s1 else s1
  | .release feeder spotId => s.modPlt (applyRelease id feeder.toNat spotId.toNat)
  | .reserved _ => s

end Sys2Proof.Machine
end

