-- ==== Sys2Proof/Machine/Bus.lean ====
section
/-! DEFINITION. The Zone Bus Controller (chapter 1): operating states, attempts and their outcomes, and the frames of
other nodes. -/

namespace Sys2Proof.Machine

/-! ### Operating states -/

/-- R1: the node samples the line: JOINING, RUN or SILENT. -/
def State.onBus (s : State) : Bool :=
  decide (s.zbc.node = .joining ∨ s.zbc.node = .run ∨ s.zbc.node = .silent)

/-- R2: the node decodes frames: it has sampled ten recessive bits since it entered the line. -/
def State.decodes (s : State) : Bool := s.onBus && s.zbc.synced

/-- R18: what a receiver of this node drives: nothing in SILENT. -/
def State.drives (s : State) (d : Drive) : Drive := if s.zbc.node = .silent then .recessive else d

/-- R20: entry to JOINING: rows cleared, failure count 0, join timer 520 ms; a CLAIM chosen but not begun is void,
since JOINING sends none (R14). -/
def enterJoining (s : State) : State :=
  ((voidClaimChoice s).modPlt clearRows).modZbc fun z =>
    { z with node := .joining, failures := 0, joinTimer := some (Config.joinWaitMs * Config.usPerMs) }

/-- R17, R18, R47: entry to SILENT: the CLAIM and RELEASE slots cancelled, the join timer discarded, BUS_SILENT with
the kind of the failed frame. -/
def enterSilent (kind : Nat) (s : State) : State :=
  raiseCount .busSilent kind (s.modZbc fun z =>
    { z with node := .silent, claimSlot := none, releaseSlot := none, releaseCancelled := false, joinTimer := none })

/-- R17: a failed attempt. -/
def countFailure (kind : Nat) (s : State) : State :=
  let s1 := s.modZbc fun z => { z with failures := min Config.silentAfter (z.failures + 1) }
  if s1.zbc.failures = Config.silentAfter ∧ (s.zbc.node = .joining ∨ s.zbc.node = .run) then enterSilent kind s1
  else s1

/-! ### The end of an attempt -/

/-- The own frame on the wire: the slot and the frame it holds. -/
def State.onWire (s : State) : Option (Slot × Frame) :=
  match s.zbc.wire with
  | none => none
  | some slot => (slotFrame s.zbc slot).map fun f => (slot, f)

/-- R13, R16: the slot after an attempt that did not complete: CLAIM emptied, a cancelled RELEASE emptied. -/
def slotAfterFailure (slot : Slot) (z : Zbc) : Zbc :=
  match slot with
  | .claim => { z with wire := none, line := .busy, claimSlot := none }
  | .release =>
    if z.releaseCancelled then
      { z with wire := none, line := .busy, releaseSlot := none, releaseCancelled := false }
    else { z with wire := none, line := .busy }
  | .announce => { z with wire := none, line := .busy }

/-- R13: the slot after its frame has completed. -/
def slotAfterCompletion (slot : Slot) (z : Zbc) : Zbc :=
  match slot with
  | .claim => { z with wire := none, line := .busy, claimSlot := none }
  | .release => { z with wire := none, line := .busy, releaseSlot := none, releaseCancelled := false }
  | .announce => { z with wire := none, line := .busy, announceSlot := none }

/-- R40, R41, R43, R44: the SRU is told that its offer was lost, rejected or hit by a bit error. -/
def offerFailed (s : State) : State :=
  if s.sru.claim = .offered then
    let s1 := s.modSru fun u => { u with withdrawn := false, record := none }
    if s.sru.expiryHeld then timeOutClaim (s1.modSru fun u => { u with claim := .waiting })
    else if s.sru.withdrawn then s1.modSru claimOver
    else s1.modSru enterWaiting
  else s

/-- R6, R40: the attempt is lost; the loss is reported at the end of the winning frame. -/
def reportLoss (s : State) : State :=
  match s.zbc.wire with
  | none => s
  | some slot =>
    let s1 := s.modZbc (slotAfterFailure slot)
    if slot = .claim then offerFailed s1 else s1

/-- R17, R41: the attempt failed: it is reported to its owner and counted. -/
def failAttempt (slot : Slot) (kind : Nat) (s : State) : State :=
  let s1 := s.modZbc (slotAfterFailure slot)
  countFailure kind (if slot = .claim then offerFailed s1 else s1)

/-- R12, R45, R166: completion is reported to the owner of the slot. -/
def reportCompletion (slot : Slot) (s : State) : State :=
  match slot with
  | .claim => s
  | .release => if s.sru.claim = .releasing ∧ s.ownRow = none then s.modSru claimOver else s
  | .announce => s.modRlk fun k => { k with mailbox := none }

/-- R8, R12: the own frame completes: it counts as sent, is applied, ALONE is raised where no receiver drove the
receipt slot, and the owner is told. -/
def completeAttempt (slot : Slot) (f : Frame) (receipt : Bool) (s : State) : State :=
  let s1 := s.modZbc fun z => { slotAfterCompletion slot z with failures := 0 }
  let s2 := if frameValid f then applyFrame true f s1 else s1
  let s3 := if receipt then s2 else raiseCount .alone (kindCode f.body) s2
  reportCompletion slot s3

/-! ### Frames of other nodes -/

/-- R7, R9 to R11: a completed frame of another node is discarded, raises ID_CLASH unless that has been raised for it,
or is applied. -/
def takeFrame (clashTold : Bool) (f : Frame) (s : State) : State :=
  if frameValid f = false then s
  else if f.arb.sender.toNat = s.settings.ownId then
    if clashTold then s else raiseCount .idClash (kindCode f.body) s
  else applyFrame false f s

/-- R2, R4, R5, R7: the line stays busy until the next idle point; what the node drove for this frame, which it follows
no more. -/
def endFrame (d : Drive) (s : State) : State :=
  s.modZbc fun z => { z with line := .busy, drive := s.drives d, clashTold := false }

/-- R5, R9: a frame completes at this node. The node's own frame on the wire is its own completion; for any other
the receipt slot is driven, the frame taken, and then a loss of the own attempt reported (R6). -/
def receiveFrame (f : Frame) (s : State) : State :=
  if s.decodes then
    let s1 := sendStart s
    match s1.onWire with
    | some (slot, own) =>
      if own = f then completeAttempt slot own true s1
      else reportLoss (takeFrame s1.zbc.clashTold f (endFrame .receiptSlot s1))
    | none => takeFrame s1.zbc.clashTold f (endFrame .receiptSlot s1)
  else s

/-- R4, R5: a frame ends at this node without completing, by what the node drives for it. -/
def discardFrame (d : Drive) (s : State) : State :=
  if s.decodes then reportLoss (endFrame d (sendStart s)) else s

/-! ### The line -/

/-- R2, R14: ten recessive bits have been sampled: the line is idle, with no frame followed, and an arbitration start is
made. -/
def idlePoint (s : State) : State :=
  if s.onBus ∧ s.zbc.wire = none then
    callArbitration (s.modZbc fun z => { z with line := .idle, synced := true, clashTold := false })
  else s

/-- R2, R15: a start bit of another node: the line is busy and a choice whose start bit was not sent is void. -/
def startBitSeen (s : State) : State :=
  if s.onBus ∧ s.zbc.line = .idle then (voidChoice s).modZbc fun z => { z with line := .busy } else s

/-- R7: a bit error in the own frame: the attempt failed, the reject slot is driven (not in SILENT, R18), and
ID_CLASH is raised where the rest decodes with a good check and the own arbitration field. A node that drove the reject
slot has seen the last of that frame; SILENT, it may see the frame complete, and raises ID_CLASH for it no more (log 41). -/
def bitErrorSeen (heard : Option ArbField) (s : State) : State :=
  let s1 := sendStart s
  match s1.onWire with
  | none => s
  | some (slot, f) =>
    let s2 := failAttempt slot (kindCode f.body) s1
    let s3 := endFrame .rejectSlot s2
    if heard = some f.arb then
      (raiseCount .idClash (kindCode f.body) s3).modZbc fun z => { z with clashTold := decide (z.node = .silent) }
    else s3

/-- R8: the own frame reads a dominant reject slot. -/
def ownRejected (s : State) : State :=
  let s1 := sendStart s
  match s1.onWire with
  | none => s
  | some (slot, f) => failAttempt slot (kindCode f.body) s1

/-- R8: the own frame reads a recessive reject slot. -/
def ownCompleted (receipt : Bool) (s : State) : State :=
  let s1 := sendStart s
  match s1.onWire with
  | none => s
  | some (slot, f) => completeAttempt slot f receipt s1

/-! ### Timers of the bus -/

/-- R20: the join timer has run out: RUN, JOIN_DONE, and an arbitration start. -/
def joinDone (s : State) : State :=
  callArbitration (raiseCount .joinDone (occupiedRows s.plt) (s.modZbc fun z =>
    { z with node := .run, joinTimer := none }))

/-- R16: the RELEASE slot is cancelled: emptied at once, or, on the wire, at the end of the attempt. -/
def cancelRelease (s : State) : State :=
  if s.zbc.wire = some .release then s.modZbc fun z => { z with releaseCancelled := true }
  else
    (if s.zbc.chosen = some .release then voidChoice s else s).modZbc fun z =>
      { z with releaseSlot := none, releaseCancelled := false }

/-- R46: what the SRU does when the own row clears by its lapse. -/
def ownRowLapsed (s : State) : State :=
  match s.sru.claim with
  | .releasing => (cancelRelease s).modSru claimOver
  | .granted => slotLost (s.modSru claimOver)
  | .none => s
  | .waiting => s
  | .offered => s

/-- R28: the row of a node id clears by its lapse, and the SRU calls for an arbitration start (R14). -/
def lapseRow (id : Nat) (s : State) : State :=
  let s1 := s.modPlt (setRow id none)
  callArbitration (if id = s.settings.ownId then ownRowLapsed s1 else s1)

end Sys2Proof.Machine
end

