-- ==== Sys2Proof/Machine/Load.lean ====
section
/-! DEFINITION. The Image Loader (chapter 9) and the image layout (R194): the length test, the check, the header
tests, the marks, and the two ends of a load. -/

namespace Sys2Proof.Machine

/-! ### The whole-image check -/

/-- R182: one bit of the reflected CRC-32, polynomial 0xEDB88320. -/
def crc32Bit (reg : BitVec 32) : BitVec 32 :=
  if reg.getLsbD 0 then reg >>> 1 ^^^ 0xEDB88320#32 else reg >>> 1

/-- R182: one byte of the CRC-32, least significant bit first. -/
def crc32Byte (reg : BitVec 32) (b : Byte) : BitVec 32 :=
  crc32Bit (crc32Bit (crc32Bit (crc32Bit (crc32Bit (crc32Bit (crc32Bit (crc32Bit
    (reg ^^^ b.setWidth 32))))))))

/-- R182: the CRC-32 of a run of bytes: all ones before the first byte, the remainder complemented. -/
def crc32 (bs : List Byte) : BitVec 32 := ~~~(bs.foldl crc32Byte 0xFFFFFFFF#32)

/-- R194: the image check as its last four bytes, least significant byte first. -/
def checkBytes (c : BitVec 32) : List Byte :=
  [c.setWidth 8, (c >>> 8).setWidth 8, (c >>> 16).setWidth 8, (c >>> 24).setWidth 8]

/-- R182: the stored check of an image equals the computed one. -/
def imageCheckHolds (image : List Byte) : Bool :=
  decide (image.drop (image.length - 4) = checkBytes (crc32 (image.take (image.length - 4))))

/-! ### The header (R183, R194) -/

/-- R194: the layout length for a spot record count. -/
def layoutLength (records : Nat) : Nat := 1537 + 5 * records

/-- R181: the length test. -/
def lengthHolds (length records : Nat) : Bool :=
  decide (records ≤ 1024 ∧ 1 ≤ length ∧ length ≤ 49152 ∧ length = layoutLength records)

/-- R194: the spot record count of an image. -/
def imageRecords (image : List Byte) : Nat := wordAt image 2

/-- R183: the band count. -/
def imageBandCount (image : List Byte) : Nat := byteAt image 20

/-- R80, R194: the band places the count admits. -/
def imageBands (image : List Byte) : List Band :=
  (List.range (imageBandCount image)).map fun i =>
    { threshold := wordAt image (21 + 3 * i), boost := byteAt image (23 + 3 * i) }

/-- R183, item 14: thresholds strictly rise. -/
def rising (l : List Nat) : Bool :=
  match l with
  | [] => true
  | [_] => true
  | a :: b :: t => decide (a < b) && rising (b :: t)

/-- R194: the style map byte of a style is 0..31 or 255. -/
def styleByteHolds (b : Nat) : Bool := decide (b ≤ 31 ∨ b = 255)

/-- R183: whether header item `n` holds. -/
def itemHolds (image : List Byte) (n : Nat) : Bool :=
  match n with
  | 1 => decide (byteAt image 5 ≤ 3)
  | 2 => decide (byteAt image 6 ≤ 2)
  | 3 => decide (byteAt image 7 ≤ 3)
  | 4 => decide (1 ≤ byteAt image 8)
  | 5 => decide (1 ≤ byteAt image 9 ∧ byteAt image 9 ≤ 15)
  | 6 => decide (1 ≤ wordAt image 10)
  | 7 => decide (byteAt image 12 = 1 ∨ byteAt image 12 = 2 ∨ byteAt image 12 = 4 ∨ byteAt image 12 = 8)
  | 8 => decide (byteAt image 13 ≤ 60)
  | 9 => decide (20 ≤ wordAt image 14 ∧ wordAt image 14 ≤ 2000)
  | 11 => decide (byteAt image 17 ≤ 1)
  | 13 => decide (imageBandCount image ≤ 8)
  | 14 => rising ((imageBands image).map Band.threshold)
  | 15 => (imageBands image).all fun b => decide (b.boost ≤ 30)
  | 16 => (List.range 16).all fun i => styleByteHolds (byteAt image (45 + i))
  | _ => true

/-- R183: the lowest-numbered header item that fails. -/
def failedItem (image : List Byte) : Option Nat := (List.range 16).map (· + 1) |>.find? fun n => !itemHolds image n

/-- R183: the node id of the header. -/
def imageNodeId (image : List Byte) : Nat := byteAt image 4

/-- R182, R183: the first failure in the order CHECK, ID, FIELD. -/
def imageFailure (image : List Byte) : Option (LoadReason × Nat) :=
  if imageCheckHolds image = false then some (.check, 0)
  else if imageNodeId image = 0 ∨ 32 ≤ imageNodeId image then some (.id, 0)
  else (failedItem image).map fun n => (.field, n)

/-- R194: the bit rate code. -/
def bitRateOf (code : Nat) : Option BitRate :=
  match code with
  | 0 => some .kbit250
  | 1 => some .kbit500
  | 2 => some .kbit1000
  | _ => none

/-- R183, R187: the settings of a header. -/
def imageSettings (image : List Byte) : Settings :=
  { ownId := imageNodeId image, role := byteAt image 5, bitRate := bitRateOf (byteAt image 6),
    feeder := byteAt image 7, feederLimit := byteAt image 8, countLimit := byteAt image 9, avgN := byteAt image 12,
    claimLead := byteAt image 13, claimWaitLimit := wordAt image 14, lateMargin := byteAt image 16,
    abortPath := if byteAt image 17 = 1 then .ramp else .cut }

/-- R183: the nominal pitch of a header. -/
def imagePitch (image : List Byte) : Nat := wordAt image 10

/-! ### The objects (R185, R194) -/

/-- R194: the style map entry of a style. -/
def imageStyle (image : List Byte) (style : Nat) : Option Nat :=
  if byteAt image (45 + style) ≤ 31 then some (byteAt image (45 + style)) else none

/-- R194: the fields of the schedule record at place `at`, its mark not yet given. -/
def scheduleFields (image : List Byte) (at_ : Nat) : Schedule :=
  { mark := .absent, level := wordAt image (at_ + 1), load := byteAt image (at_ + 3),
    squeeze := wordAt image (at_ + 4), upslope := byteAt image (at_ + 6), shape := byteAt image (at_ + 7),
    pulses := byteAt image (at_ + 8), pulse := wordAt image (at_ + 9), cool := byteAt image (at_ + 11),
    downslope := byteAt image (at_ + 12), endPercent := byteAt image (at_ + 13), hold := wordAt image (at_ + 14),
    windowLow := byteAt image (at_ + 16), windowHigh := byteAt image (at_ + 17), blank := byteAt image (at_ + 18),
    action := byteAt image (at_ + 19), retry := byteAt image (at_ + 20) }

/-- R78, R185: schedule `n` of an image with its mark; an absent one holds no field (R194). -/
def imageSchedule (image : List Byte) (n : Nat) : Schedule :=
  let at_ := 189 + 21 * n
  let c := scheduleFields image at_
  match scheduleMark (byteAt image at_) c with
  | .absent => absentSchedule
  | m => { c with mark := m }

/-- R194: spot record `i` of an image. -/
def imageRecord (image : List Byte) (i : Nat) : SpotRecord :=
  let at_ := 1533 + 5 * i
  { spotId := wordAt image at_, sched := byteAt image (at_ + 2), mask := image.getD (at_ + 3) 0,
    expect := image.getD (at_ + 4) 0 }

/-- R72: no spot id occurs twice. -/
def distinct (l : List Nat) : Bool :=
  match l with
  | [] => true
  | a :: t => !t.contains a && distinct t

/-- R72, R185: the mark of a program, from its presence code and the records and schedules of the store. -/
def programMark (presence first count : Nat) (records : List SpotRecord) (schedules : List Schedule) : Mark :=
  if presence = 0 then .absent
  else
    let own := (List.range count).map fun k => records.getD (first + k) emptyRecord
    if presence = 1 ∧ count ≤ 64 ∧ first ≤ 1023 ∧ first + count ≤ 1024 ∧
        (own.all fun r => decide (1 ≤ r.spotId ∧ r.spotId ≤ 999)) = true ∧
        distinct (own.map SpotRecord.spotId) = true ∧
        (own.all fun r => decide ((schedules.getD r.sched absentSchedule).mark ≠ .absent)) = true then .usable
    else .unusable

/-- R71, R194: program `n` of an image with its mark; an absent one holds no range. -/
def imageProgram (image : List Byte) (records : List SpotRecord) (schedules : List Schedule) (n : Nat) : Program :=
  let at_ := 61 + 4 * n
  match programMark (byteAt image at_) (wordAt image (at_ + 1)) (byteAt image (at_ + 3)) records schedules with
  | .absent => absentProgram
  | m => { mark := m, first := wordAt image (at_ + 1), count := byteAt image (at_ + 3) }

/-- R185: the Program Store an image fills: schedules are marked first, then the programs against them. -/
def imageStore (image : List Byte) : Pst :=
  let schedules := (List.range 64).map (imageSchedule image)
  let records := (List.range (imageRecords image)).map (imageRecord image)
  { styleMap := (List.range 16).map (imageStyle image),
    programs := (List.range 32).map (imageProgram image records schedules),
    records := records, schedules := schedules, bands := imageBands image, dressLimit := wordAt image 18 }

/-- R186: the count of UNUSABLE schedules and programs. -/
def unusableCount (p : Pst) : Nat :=
  (p.schedules.filter fun c => decide (c.mark = .unusable)).length +
    (p.programs.filter fun c => decide (c.mark = .unusable)).length

/-! ### The load -/

/-- R181: the bytes of a block or of the rest of the image join what has been read. -/
def readBytes (bytes : List Byte) (m : Iml) : Iml := { m with image := m.image ++ bytes }

/-- R181: the memory is deselected: no byte is read beyond this moment (log 30). -/
def deselectMemory (m : Iml) : Iml := { m with selected := false }

/-- R184: the load ends with a bad image. -/
def endBad (reason : LoadReason) (item : Nat) (s : State) : State :=
  raise .imageBad (byte (loadReasonCode reason)) (byte item) 0 0
    ((s.modIml fun m => { m with phase := .bad, reason := reason, item := item, tested := false, length := 0,
                                 image := [] }).modZbc fun z => { z with node := .inert })

/-- R51, R63, R187: the pitch history of a good load. -/
def loadPitch (pitch avg : Nat) (b : Bq) : Bq :=
  { b with history := List.replicate 8 pitch, basePitch := meanPitch (List.replicate 8 pitch) avg }

/-- R186: SCHEDULE_BAD, once, where an object is unusable. -/
def raiseUnusable (s : State) : State :=
  if unusableCount s.pst = 0 then s else raiseCount .scheduleBad (unusableCount s.pst) s

/-- R187: the load ends with a good image: settings and store are given, and the node enters JOINING. -/
def endGood (s : State) : State :=
  let image := s.iml.image
  let s1 := ((s.modSettings fun _ => imageSettings image).modPst fun _ => imageStore image).modBq
    (loadPitch (imagePitch image) (byteAt image 12))
  let s2 := s1.modIml fun m => { m with phase := .good, tested := false, length := 0, image := [] }
  enterJoining (raiseUnusable s2)

/-- R181: the image length and spot record count have been read; a failed test stops the read at once. -/
def testLength (length records : Nat) (s : State) : State :=
  if s.zbc.node = .loading ∧ s.iml.phase = .reading ∧ s.iml.tested = false ∧ s.iml.image = [] then
    if lengthHolds length records then
      s.modIml fun m => { m with tested := true, length := length, image := bytes2 length ++ bytes2 records }
    else endBad .length 0 (s.modIml deselectMemory)
  else s

/-- R181: a block of 256 bytes has been read: the bytes that bring the read to the next multiple of 256. -/
def takeBlock (bytes : List Byte) (s : State) : State :=
  if s.zbc.node = .loading ∧ s.iml.phase = .reading ∧ s.iml.tested ∧
      s.iml.image.length + bytes.length = 256 * (s.iml.blocks + 1) ∧
      s.iml.image.length + bytes.length ≤ s.iml.length then
    s.modIml fun m => { readBytes bytes m with blocks := m.blocks + 1 }
  else s

/-- R181: the read of the whole image ends: the memory deselected, the block count at ceil(length / 256), phase
VALIDATING. -/
def completeRead (bytes : List Byte) (s : State) : State :=
  if s.zbc.node = .loading ∧ s.iml.phase = .reading ∧ s.iml.tested ∧
      s.iml.image.length + bytes.length = s.iml.length ∧ s.iml.length < 256 * (s.iml.blocks + 1) then
    s.modIml fun m => { deselectMemory (readBytes bytes m) with blocks := ceilDiv m.length 256, phase := .validating }
  else s

/-- R182 to R187: the tests of VALIDATING end the load. -/
def validate (s : State) : State :=
  if s.zbc.node = .loading ∧ s.iml.phase = .validating then
    match imageFailure s.iml.image with
    | some (reason, item) => endBad reason item s
    | none => endGood s
  else s

/-- R22, R169, R180: every block takes its reset values and a load begins; the queue of waiting commands, the robot
controller's clock and the counter of free choices are no part of the node (log 24). -/
def restartNode (s : State) : State :=
  { State.reset with pending := s.pending, clockedBeyond := s.clockedBeyond, freeIndex := s.freeIndex }

end Sys2Proof.Machine
end

