-- ==== Sys2Proof/Machine/Records.lean ====
section
/-! DEFINITION. The records the robot controller reads (section 10.4): report record, status record, row record and
port byte, as bytes. -/

namespace Sys2Proof.Machine

/-! ### Reports -/

/-- R193: the kind code of a report. -/
def reportCode (r : Report) : Nat :=
  match r with
  | .programStart _ _ _ _ _ _ => 1
  | .spotDone _ _ _ _ _ _ _ _ => 2
  | .revisitStart _ _ _ => 3
  | .bodyDone _ _ _ _ _ _ _ _ _ _ _ => 4
  | .event _ _ _ _ _ => 5

/-- R193: the content of a report, from byte 2. -/
def reportContent (r : Report) : List Byte :=
  match r with
  | .programStart serial zoneSeq style program planCount firstSpot =>
    bytes3 serial ++ [byte zoneSeq, byte style, byte program, byte planCount] ++ bytes2 firstSpot
  | .spotDone serial zoneSeq spotId pass outcome cause res early =>
    bytes3 serial ++ [byte zoneSeq] ++ bytes2 spotId ++
      [byte (passCode pass), byte (outcomeCode outcome), byte (causeCode cause), byte (worstCode res.worst)] ++
      bytes2 res.mean ++ bytes2 res.res ++ [byte res.pulses, byte (bit res.ext + 2 * bit early)]
  | .revisitStart serial zoneSeq spots =>
    bytes3 serial ++ [byte zoneSeq, byte spots.length] ++ spots.flatMap bytes2
  | .bodyDone serial zoneSeq style program nowork exited good suspect aborted missed e =>
    bytes3 serial ++ [byte zoneSeq, byte style, byte (programCode program), byte (bit nowork),
      byte (if exited then causeCode .exited else 0), byte good, byte suspect, byte aborted, byte missed] ++ bytes2 e
  | .event flag a0 a1 a2 a3 => [byte (flagBit flag), a0, a1, a2, a3]

/-- R193: the report record, 24 bytes; every byte 0 for the empty marker. -/
def reportRecord (n : Option Numbered) : List Byte :=
  match n with
  | none => padTo 24 []
  | some x => padTo 24 (byte (reportCode x.report) :: byte x.number :: reportContent x.report)

/-! ### Status -/

/-- The spot id of a plan entry, 0 where there is none. -/
def State.spotAt (s : State) (i : Nat) : Nat := (s.ssq.plan[i]?.map PlanEntry.spotId).getD 0

/-- R176: the expected spot, the spot in hand, or 0 in IDLE. -/
def State.shownSpot (s : State) : Nat :=
  match s.ssq.state with
  | .idle => 0
  | .awaitGun => (s.expectedIdx.map s.spotAt).getD 0
  | .squeeze | .firing | .hold => (s.ssq.inHand.map fun h => s.spotAt h.planIdx).getD 0

/-- R176, R193: the status record, 23 bytes. -/
def State.statusRecord (s : State) : List Byte :=
  [byte (nodeCode s.zbc.node), byte (loadPhaseCode s.iml.phase), byte s.iml.blocks, byte (loadReasonCode s.iml.reason),
    byte s.iml.item, byte s.settings.ownId, byte s.settings.role, byte (ssqCode s.ssq.state),
    byte (passCode s.ssq.pass)] ++ bytes2 s.shownSpot ++
  [byte (claimCode s.sru.claim), byte (bit s.bq.hold), byte s.bq.queue.length, byte s.rlk.fifo.length,
    byte (bit s.rlk.mailbox.isSome), byte ((s.rlk.mailbox.map commandCode).getD 0)] ++
  bytes2 s.rlk.flags.toNat ++ bytes2 s.rlk.mask.toNat ++ bytes2 s.cpg.w

/-! ### Rows -/

/-- R179: the content of a PLT row, from byte 3; the lapse rounded up to whole ms. -/
def pltContent (r : Option Row) : List Byte :=
  match r with
  | none => []
  | some x => [1, byte x.feeder, byte x.load] ++ bytes2 (ceilDiv x.lapse Config.usPerMs) ++ [byte x.zoneSeq] ++
      bytes2 x.spotId ++ [byte x.prec]

/-- R179: the content of a BQ row. -/
def bqContent (r : Option BodyRecord) : List Byte :=
  match r with
  | none => []
  | some x => bytes3 x.serial ++ [byte x.style, x.options, byte x.zoneSeq] ++ bytes2 x.arrival ++
      [byte (bit x.exitTaken)]

/-- R179: the content of a PLAN row. -/
def planContent (e : Option PlanEntry) : List Byte :=
  match e with
  | none => []
  | some x => bytes2 x.recIdx ++ bytes2 x.spotId ++
      [byte x.sched, byte (outcomeCode x.outcome), byte (causeCode x.cause)]

/-- R179: the content of a DEFERRED row. -/
def State.deferredContent (s : State) (i : Option Nat) : List Byte :=
  match i with
  | none => []
  | some x => byte x :: bytes2 (s.spotAt x)

/-- R194: bytes 1..20 of the image record of a schedule. -/
def scheduleBytes (c : Schedule) : List Byte :=
  bytes2 c.level ++ [byte c.load] ++ bytes2 c.squeeze ++ [byte c.upslope, byte c.shape, byte c.pulses] ++
    bytes2 c.pulse ++ [byte c.cool, byte c.downslope, byte c.endPercent] ++ bytes2 c.hold ++
    [byte c.windowLow, byte c.windowHigh, byte c.blank, byte c.action, byte c.retry]

/-- R82, R179: the content of a SCHEDULE row. -/
def scheduleContent (c : Schedule) : List Byte :=
  byte (markCode c.mark) :: scheduleBytes c ++ bytes2 (shownProfile c) ++ bytes2 (shownReserve c)

/-- R179: the content of a row of a table, from byte 3. -/
def State.rowContent (s : State) (t : Table) (i : Nat) : List Byte :=
  match t with
  | .plt => pltContent (rowOf s.plt i)
  | .bq => bqContent s.bq.queue[i]?
  | .plan => planContent s.ssq.plan[i]?
  | .deferred => s.deferredContent s.ssq.deferred[i]?
  | .pitch => bytes2 (s.bq.history.getD i 0)
  | .learned => bytes2 (s.ssq.learned.getD i 0)
  | .schedule => scheduleContent (scheduleOf s.pst i)

/-- R178, R193: the row record at the cursor, 28 bytes; at the end, the end marker. -/
def State.rowRecord (s : State) : List Byte :=
  let t := s.rlk.cursorTable
  let i := s.rlk.cursorIndex
  if i < tableEnd t then padTo 28 (byte (tableCode t) :: bytes2 i ++ s.rowContent t i)
  else padTo 28 (byte (tableCode t) :: bytes2 65535)

/-! ### The port byte -/

/-- R161, R192: the port byte: loading, and the attention line. -/
def State.portByte (s : State) : Byte := byte (128 * bit (decide (s.zbc.node = .loading)) + 64 * bit s.attention)

end Sys2Proof.Machine
end

