-- ==== Sys2Proof/Machine/Link.lean ====
section
/-! DEFINITION. The transactions of the robot link (chapter 8, R192): what each shifts out, its tests, and its effect at
the release of chip select. -/

namespace Sys2Proof.Machine

/-! ### Transaction kinds -/

/-- R192: the kind byte of WRITE-A. -/
def kindWriteA : Byte := 0x10
/-- R192: the kind byte of WRITE-B. -/
def kindWriteB : Byte := 0x11
/-- R192: the kind byte of SET-CURSOR. -/
def kindSetCursor : Byte := 0x40

/-- R192: the fixed length of a kind, none for an unknown kind. -/
def kindLength (kind : Byte) : Option Nat :=
  match kind.toNat with
  | 0x10 => some 4
  | 0x11 => some 8
  | 0x20 => some 25
  | 0x21 => some 24
  | 0x30 => some 3
  | 0x31 => some 3
  | 0x40 => some 4
  | 0x41 => some 29
  | _ => none

/-! ### What is shifted out -/

/-- R161: a complete transaction of fixed length `n` shifts out the port byte and its content, zero bytes to its end,
all of it fixed at the kind byte; and a zero byte for each byte clocked beyond that length. -/
def shiftOut (n : Nat) (content : List Byte) (s : State) : State :=
  s.modRlk fun k => { k with out := padTo n (s.portByte :: content) ++ List.replicate s.clockedBeyond 0 }

/-- R161, R162: a transaction that carries data in. In LOADING it has no effect. -/
def dataIn (n : Nat) (effect : State → State) (s : State) : State :=
  if s.zbc.node = .loading then shiftOut n [] s else effect (shiftOut n [] s)

/-- R161, R162: a transaction that returns data. In LOADING it returns zero bytes and has no effect. -/
def dataOut (n : Nat) (content : List Byte) (effect : State → State) (s : State) : State :=
  if s.zbc.node = .loading then shiftOut n [] s else effect (shiftOut n content s)

/-! ### Mailbox A -/

/-- R164, R192: a motion record by its kind. -/
def motionRecord (kind : Byte) (spot : Nat) (s : State) : State :=
  match kind.toNat with
  | 1 => gunClosed spot s
  | 2 => gunOpened s
  | 3 => setWeldCount 0 s
  | _ => refuse kindWriteA kind s

/-- R163, R164: a complete WRITE-A; INERT refuses every motion record. -/
def writeA (kind : Byte) (spot : Nat) (s : State) : State :=
  dataIn 4 (fun t => if s.zbc.node = .inert then refuse kindWriteA kind t else motionRecord kind spot t) s

/-! ### Mailbox B -/

/-- R165, R192: the command kind of a held command. -/
def heldKind (b : FrameBody) : Byte := byte (commandCode b)

/-- R165, test 4: the role lets the node send this announcement (1 ENTRY, 2 EXIT, 3 both). -/
def roleAllows (role : Nat) (b : FrameBody) : Bool :=
  match b with
  | .body _ _ _ _ => decide (role = 1 ∨ role = 3)
  | .exit _ => decide (role = 2 ∨ role = 3)
  | .halt _ => true
  | .resume => true
  | .derate _ _ => true
  | .claim _ _ _ _ _ => true
  | .release _ _ => true
  | .reserved _ => true

/-- R165, test 5: an announced serial is not 0. -/
def serialGiven (b : FrameBody) : Bool :=
  match b with
  | .body serial _ _ _ => decide (serial ≠ 0)
  | .exit serial => decide (serial ≠ 0)
  | .halt _ => true
  | .resume => true
  | .derate _ _ => true
  | .claim _ _ _ _ _ => true
  | .release _ _ => true
  | .reserved _ => true

/-- R166: the frame of a held command. -/
def State.announceFrame (s : State) (b : FrameBody) : Frame :=
  { arb := { prec := announcePrec b, sender := BitVec.ofNat 5 s.settings.ownId }, body := b }

/-- R166: a held command is placed in mailbox B and its frame in the ANNOUNCE slot, which is then ready (R14). -/
def holdCommand (b : FrameBody) (s : State) : State :=
  callArbitration ((s.modRlk fun k => { k with mailbox := some b }).modZbc
    fun z => { z with announceSlot := some (s.announceFrame b) })

/-- R165: the tests of a held command in their order. -/
def takeHeld (b : FrameBody) (s : State) : State :=
  if s.zbc.node = .inert then refuse kindWriteB (heldKind b) s
  else if s.rlk.mailbox.isSome then raise .mailboxOverrun (heldKind b) 0 0 0 s
  else if roleAllows s.settings.role b = false then refuse kindWriteB (heldKind b) s
  else if serialGiven b = false then refuse kindWriteB (heldKind b) s
  else holdCommand b s

/-- R165, R167: ABANDON-BODY. -/
def takeAbandon (s : State) : State :=
  if s.zbc.node = .inert ∨ s.ssq.state = .idle then refuse kindWriteB 6 s else endActive s

/-- R21: the acceptance test of REJOIN. -/
def State.mayRejoin (s : State) : Bool :=
  decide ((s.zbc.node = .run ∨ s.zbc.node = .silent) ∧ s.ownRow = none ∧ s.sru.claim ≠ .offered)

/-- R165, R168: REJOIN. -/
def takeRejoin (s : State) : State := if s.mayRejoin then enterJoining s else refuse kindWriteB 7 s

/-- R169: RESTART, taken in every state but LOADING. What the transaction has shifted out is shifted out. -/
def takeRestart (s : State) : State := (restartNode s).modRlk fun k => { k with out := s.rlk.out }

/-- R192: the frame a held command needs, from its kind and the six field bytes. -/
def heldBody (kind : Byte) (fields : BitVec 48) : Option FrameBody :=
  match kind.toNat with
  | 1 => some (.body (fields.extractLsb' 24 24) (fields.extractLsb' 16 4) (fields.extractLsb' 8 8)
      (fields.extractLsb' 0 8))
  | 2 => some (.exit (fields.extractLsb' 24 24))
  | 3 => some (.derate (fields.extractLsb' 40 2) (fields.extractLsb' 32 8))
  | 4 => some (.halt (fields.extractLsb' 40 8))
  | 5 => some .resume
  | _ => none

/-- R165, R192: a zone command by its kind; one that names none of the eight is refused, INERT or not. -/
def zoneCommand (kind : Byte) (fields : BitVec 48) (s : State) : State :=
  match heldBody kind fields with
  | some b => takeHeld b s
  | none =>
    match kind.toNat with
    | 6 => takeAbandon s
    | 7 => takeRejoin s
    | 8 => takeRestart s
    | _ => refuse kindWriteB kind s

/-- R161, R165: a complete WRITE-B. -/
def writeB (effect : State → State) (s : State) : State := dataIn 8 effect s

/-! ### Reports, flags and mask -/

/-- R172: the head report leaves the FIFO. -/
def popReport (k : Rlk) : Rlk := { k with fifo := k.fifo.tail }

/-- R172: a complete READ-REPORT. -/
def takeReport (s : State) : State := dataOut 25 (reportRecord s.rlk.fifo.head?) (fun t => t.modRlk popReport) s

/-- R162, R176: a complete READ-STATUS, answered in every state. -/
def takeStatus (s : State) : State := shiftOut 24 s.statusRecord s

/-- R175: a complete SET-MASK. -/
def takeMask (mask : BitVec 16) (s : State) : State :=
  dataIn 3 (fun t => t.modRlk fun k => { k with mask := mask }) s

/-- R174: the named flags are cleared. -/
def clearNamed (set : BitVec 16) (k : Rlk) : Rlk := { k with flags := k.flags &&& ~~~set }

/-- R174: a complete CLEAR-FLAGS. -/
def takeClear (set : BitVec 16) (s : State) : State := dataIn 3 (fun t => t.modRlk (clearNamed set)) s

/-! ### The inspection cursor -/

/-- R177: the table a SET-CURSOR names, where its index lies in the table's row range. -/
def cursorAt (table : Byte) (index : Nat) : Option Table :=
  match tableOf table.toNat with
  | none => none
  | some t => if tableFirst t ≤ index ∧ index < tableEnd t then some t else none

/-- R177: SET-CURSOR places the cursor, or is refused. -/
def placeCursor (table : Byte) (index : Nat) (s : State) : State :=
  match cursorAt table index with
  | some t => s.modRlk fun k => { k with cursorTable := t, cursorIndex := index }
  | none => refuse kindSetCursor 0 s

/-- R177: a complete SET-CURSOR. -/
def takeCursor (table : Byte) (index : Nat) (s : State) : State := dataIn 4 (placeCursor table index) s

/-- R178: the cursor moves to the next row, and stays at the end. -/
def advanceCursor (k : Rlk) : Rlk := { k with cursorIndex := min (k.cursorIndex + 1) (tableEnd k.cursorTable) }

/-- R178: a complete READ-ROW. -/
def takeRow (s : State) : State := dataOut 29 s.rowRecord (fun t => t.modRlk advanceCursor) s

/-! ### Cut-short and unknown transactions -/

/-- R161: the bytes are a transaction cut short or of unknown kind. -/
def incomplete (bytes : List Byte) : Bool :=
  match bytes with
  | [] => true
  | kind :: _ =>
    match kindLength kind with
    | none => true
    | some n => decide (bytes.length < n)

/-- R161, R162: what follows the port byte of a transaction of this kind: its content where it returns data, zero
bytes where it carries data in and in LOADING; of an unknown kind nothing is stated (log 16). -/
def State.contentOf (s : State) (kind : Byte) (n : Nat) : List Byte :=
  match kind.toNat with
  | 0x21 => s.statusRecord
  | 0x20 => if s.zbc.node = .loading then [] else reportRecord s.rlk.fifo.head?
  | 0x41 => if s.zbc.node = .loading then [] else s.rowRecord
  | _ =>
    if s.zbc.node ≠ .loading ∧ kindLength kind = none then (List.range n).map (Config.unknownOut kind) else []

/-- R161: what a transaction of these bytes shifts out, byte for byte. -/
def State.partialOut (s : State) (bytes : List Byte) : List Byte :=
  match bytes with
  | [] => []
  | kind :: t => padTo (t.length + 1) (s.portByte :: s.contentOf kind t.length)

/-- R161, R162: a cut-short or unknown transaction raises COMMAND_REFUSED with the kind byte, 0 when none was
complete, and has no other effect; in LOADING it has none. A READ-STATUS cut short in LOADING, of which R162 does not
say whether it is answered as in every other state or as every other transaction, shifts out status bytes and raises
nothing (DESIGN CHOICE, log 40). -/
def takeCutShort (bytes : List Byte) (s : State) : State :=
  if incomplete bytes then
    let s1 := s.modRlk fun k => { k with out := s.partialOut bytes }
    if s.zbc.node = .loading then s1 else refuse (bytes.headD 0) 0 s1
  else s

end Sys2Proof.Machine
end

