-- ==== Sys2Proof/WellFormed.lean ====
section
/-! DEFINITION. What the operands of a command must be for it to be the event its row names. `exec` does not ask: a
command that is not well-formed is answered by the same rules. -/

namespace Sys2Proof

open Machine

/-- R9, R10: a frame of another node that passes the tests of a completed frame. -/
def wellFormedFrame (arb : ArbField) (body : FrameBody) : Bool := frameValid { arb := arb, body := body }

/-- The operands of a command fit its row. -/
def Instr.wellFormed (i : Instr) : Bool :=
  match i with
  -- R181: a rise of the block count takes at most 256 bytes.
  | .blockRead bytes => decide (1 ≤ bytes.length ∧ bytes.length ≤ 256)
  -- R181: fewer than 256 bytes have been read since the last rise.
  | .imageReadComplete bytes => decide (bytes.length < 256)
  | .invalidFrame f => !frameValid f
  | .ownIdFrame f => frameValid f
  | .haltFrame arb seconds => wellFormedFrame arb (.halt seconds)
  | .resumeFrame arb => wellFormedFrame arb .resume
  | .bodyFrame arb serial style options zoneSeq => wellFormedFrame arb (.body serial style options zoneSeq)
  | .exitFrame arb serial => wellFormedFrame arb (.exit serial)
  | .derateFrame arb feeder percent => wellFormedFrame arb (.derate feeder percent)
  | .claimFrame arb feeder load lapse zoneSeq spotId =>
    wellFormedFrame arb (.claim feeder load lapse zoneSeq spotId)
  | .releaseFrame arb feeder spotId => wellFormedFrame arb (.release feeder spotId)
  -- R23: rows are indexed by node ids 1..31.
  | .rowLapse node => decide (node ≠ 0)
  -- R169: RESTART is never refused.
  | .commandKindRefused kind _ => decide (kind ≠ 8)
  | .cutShortTransaction bytes => incomplete bytes
  | .powerOn => true
  | .headerLengthRead _ _ => true
  | .joinTimerExpiry => true
  | .idlePoint => true
  | .bitError _ => true
  | .ownFrameRejected => true
  | .ownFrameCompleted _ => true
  | .insertionViolation => true
  | .frameDiscarded _ => true
  | .claimWaitExpiry => true
  | .claimLeadReached => true
  | .holdTimerExpiry => true
  | .squeezeEnd => true
  | .holdEnd => true
  | .robotLate => true
  | .stageUpdate => true
  | .sampleFrame _ => true
  | .gunClosed _ => true
  | .gunOpen => true
  | .tipDressed => true
  | .motionKindRefused _ _ => true
  | .announceBody _ _ _ _ => true
  | .announceExit _ => true
  | .announceDerate _ _ => true
  | .haltZone _ => true
  | .resumeZone => true
  | .abandonBody => true
  | .rejoin => true
  | .restart => true
  | .readReport => true
  | .readStatus => true
  | .setMask _ => true
  | .clearFlags _ => true
  | .setCursor _ _ => true
  | .readRow => true
  | .startBit => true
  | .validationEnd => true

end Sys2Proof
end

