-- ==== Sys2Proof/Decode.lean ====
section
/-! DEFINITION. Commands as they arrive in bits and bytes. The opcode table gives its rows no bits, so no word of it
spells a command; the encodings of chapter 10 spell two kinds: a zone bus frame and a robot link transaction. -/

namespace Sys2Proof

open Machine

/-- The command a word of the opcode table spells: none, since the table gives no row any bits. -/
def decodeTableWord (_nbits _w : Nat) : Option Instr := none

/-- R9 to R11: the command of a completed frame of another node, at a node of this own id. -/
def frameCommand (ownId : Nat) (f : Frame) : Instr :=
  if frameValid f = false then .invalidFrame f
  else if f.arb.sender.toNat = ownId then .ownIdFrame f
  else match f.body with
    | .halt seconds => .haltFrame f.arb seconds
    | .resume => .resumeFrame f.arb
    | .body serial style options zoneSeq => .bodyFrame f.arb serial style options zoneSeq
    | .exit serial => .exitFrame f.arb serial
    | .derate feeder percent => .derateFrame f.arb feeder percent
    | .claim feeder load lapse zoneSeq spotId => .claimFrame f.arb feeder load lapse zoneSeq spotId
    | .release feeder spotId => .releaseFrame f.arb feeder spotId
    | .reserved _ => .invalidFrame f

/-- R4, R5: the command of the bits between a start bit and the last bit of the check, from another node. -/
def lineCommand (ownId : Nat) (bits : List Bool) : Instr :=
  match readFrame bits with
  | .violation => .insertionViolation
  | .badCheck => .frameDiscarded false
  | .good f => frameCommand ownId f

/-- R192: the six field bytes of a WRITE-B as one number. -/
def fieldsOf (bytes : List Byte) : BitVec 48 :=
  BitVec.ofNat 48 (((List.range 6).map (byteAt bytes)).foldl (fun n b => 256 * n + b) 0)

/-- R192: the two bytes from place `i` as one number. -/
def wordOf (bytes : List Byte) (i : Nat) : BitVec 16 := BitVec.ofNat 16 (wordAt bytes i)

/-- R192: the command of a WRITE-A. -/
def motionCommand (kind : Byte) (spot : BitVec 16) : Instr :=
  match kind.toNat with
  | 1 => .gunClosed spot
  | 2 => .gunOpen
  | 3 => .tipDressed
  | _ => .motionKindRefused kind spot

/-- R192: the command of a WRITE-B. -/
def zoneCommandOf (kind : Byte) (fields : BitVec 48) : Instr :=
  match heldBody kind fields with
  | some (.body serial style options zoneSeq) => .announceBody serial style options zoneSeq
  | some (.exit serial) => .announceExit serial
  | some (.derate feeder percent) => .announceDerate feeder percent
  | some (.halt seconds) => .haltZone seconds
  | some .resume => .resumeZone
  | some (.claim _ _ _ _ _) => .commandKindRefused kind fields
  | some (.release _ _) => .commandKindRefused kind fields
  | some (.reserved _) => .commandKindRefused kind fields
  | none =>
    match kind.toNat with
    | 6 => .abandonBody
    | 7 => .rejoin
    | 8 => .restart
    | _ => .commandKindRefused kind fields

/-- R161: how many bytes of a transaction lie beyond the fixed length of its kind: what `State.clockedBeyond` holds
while the node takes it. -/
def bytesBeyond (bytes : List Byte) : Nat := bytes.length - (kindLength (bytes.headD 0)).getD 0

/-- R161, R192: the command of the complete bytes of a robot link transaction. Those beyond its fixed length are
ignored. -/
def transactionCommand (bytes : List Byte) : Instr :=
  if incomplete bytes then .cutShortTransaction bytes
  else
    match byteAt bytes 0 with
    | 0x10 => motionCommand (bytes.getD 1 0) (wordOf bytes 2)
    | 0x11 => zoneCommandOf (bytes.getD 1 0) (fieldsOf (bytes.drop 2))
    | 0x20 => .readReport
    | 0x21 => .readStatus
    | 0x30 => .setMask (wordOf bytes 1)
    | 0x31 => .clearFlags (wordOf bytes 1)
    | 0x40 => .setCursor (bytes.getD 1 0) (wordOf bytes 2)
    | 0x41 => .readRow
    | _ => .cutShortTransaction bytes

end Sys2Proof
end

