-- ==== Sys2Proof/Machine/FrameEvents.lean ====
section
/-! DEFINITION. Meanings of commands: Frames of other nodes that complete at this node (R9). -/

namespace Sys2Proof.Machine

/-- INVALID_FRAME (R10): decoded, receipted, and without effect. -/
def execInvalidFrame (f : Frame) (s : State) : Host.Outcome State Fault Refusal :=
  .next (receiveFrame f s)

/-- OWN_ID_FRAME (R11): not applied, ID_CLASH raised. -/
def execOwnIdFrame (f : Frame) (s : State) : Host.Outcome State Fault Refusal :=
  .next (receiveFrame f s)

/-- HALT_FRAME (R65, R68). -/
def execHaltFrame (arb : ArbField) (seconds : BitVec 8) (s : State) : Host.Outcome State Fault Refusal :=
  .next (receiveFrame { arb := arb, body := .halt seconds } s)

/-- RESUME_FRAME (R66, R68). -/
def execResumeFrame (arb : ArbField) (s : State) : Host.Outcome State Fault Refusal :=
  .next (receiveFrame { arb := arb, body := .resume } s)

/-- BODY_FRAME (R52 to R55). -/
def execBodyFrame (arb : ArbField) (serial : BitVec 24) (style : BitVec 4) (options zoneSeq : BitVec 8) (s : State) :
    Host.Outcome State Fault Refusal :=
  .next (receiveFrame { arb := arb, body := .body serial style options zoneSeq } s)

/-- EXIT_FRAME (R56, R57, R117). -/
def execExitFrame (arb : ArbField) (serial : BitVec 24) (s : State) : Host.Outcome State Fault Refusal :=
  .next (receiveFrame { arb := arb, body := .exit serial } s)

/-- DERATE_FRAME (R29). -/
def execDerateFrame (arb : ArbField) (feeder : BitVec 2) (percent : BitVec 8) (s : State) :
    Host.Outcome State Fault Refusal :=
  .next (receiveFrame { arb := arb, body := .derate feeder percent } s)

/-- CLAIM_FRAME (R25). -/
def execClaimFrame (arb : ArbField) (feeder : BitVec 2) (load : BitVec 6) (lapse zoneSeq : BitVec 8)
    (spotId : BitVec 10) (s : State) :
    Host.Outcome State Fault Refusal :=
  .next (receiveFrame { arb := arb, body := .claim feeder load lapse zoneSeq spotId } s)

/-- RELEASE_FRAME (R27). -/
def execReleaseFrame (arb : ArbField) (feeder : BitVec 2) (spotId : BitVec 10) (s : State) :
    Host.Outcome State Fault Refusal :=
  .next (receiveFrame { arb := arb, body := .release feeder spotId } s)

end Sys2Proof.Machine
end

