-- ==== Sys2Proof/Machine/Inspection.lean ====
section
/-! DEFINITION. Meanings of commands: Reports, flags, mask and cursor (sections 8.4 to 8.8). -/

namespace Sys2Proof.Machine

/-- READ_REPORT (R172). -/
def execReadReport (s : State) : Host.Outcome State Fault Refusal :=
  .next (takeReport s)

/-- READ_STATUS (R176). -/
def execReadStatus (s : State) : Host.Outcome State Fault Refusal :=
  .next (takeStatus s)

/-- SET_MASK (R175). -/
def execSetMask (mask : BitVec 16) (s : State) : Host.Outcome State Fault Refusal :=
  .next (takeMask mask s)

/-- CLEAR_FLAGS (R174). -/
def execClearFlags (set : BitVec 16) (s : State) : Host.Outcome State Fault Refusal :=
  .next (takeClear set s)

/-- SET_CURSOR (R177). -/
def execSetCursor (table : Byte) (index : BitVec 16) (s : State) : Host.Outcome State Fault Refusal :=
  .next (takeCursor table index.toNat s)

/-- READ_ROW (R178, R179). -/
def execReadRow (s : State) : Host.Outcome State Fault Refusal :=
  .next (takeRow s)

/-- CUT_SHORT_TRANSACTION (R161, R162). -/
def execCutShortTransaction (bytes : List Byte) (s : State) : Host.Outcome State Fault Refusal :=
  .next (takeCutShort bytes s)

end Sys2Proof.Machine
end

