-- ==== Sys2Proof/Machine/LineEvents.lean ====
section
/-! DEFINITION. Meanings of commands: The line and the own frame on it (chapter 1). -/

namespace Sys2Proof.Machine

/-- IDLE_POINT (R2, R14). -/
def execIdlePoint (s : State) : Host.Outcome State Fault Refusal :=
  .next (idlePoint s)

/-- START_BIT (R2, R15). -/
def execStartBit (s : State) : Host.Outcome State Fault Refusal :=
  .next (startBitSeen s)

/-- BIT_ERROR (R7, R17). -/
def execBitError (heard : Option ArbField) (s : State) : Host.Outcome State Fault Refusal :=
  .next (bitErrorSeen heard s)

/-- OWN_FRAME_REJECTED (R8, R17). -/
def execOwnFrameRejected (s : State) : Host.Outcome State Fault Refusal :=
  .next (ownRejected s)

/-- OWN_FRAME_COMPLETED (R8, R12). -/
def execOwnFrameCompleted (receipt : Bool) (s : State) : Host.Outcome State Fault Refusal :=
  .next (ownCompleted receipt s)

/-- INSERTION_VIOLATION (R4): the frame is abandoned and the disturbance is sent. -/
def execInsertionViolation (s : State) : Host.Outcome State Fault Refusal :=
  .next (discardFrame .disturbance s)

/-- FRAME_DISCARDED (R5): a bad check here drives the reject slot, a good one the receipt slot. -/
def execFrameDiscarded (checkGood : Bool) (s : State) : Host.Outcome State Fault Refusal :=
  .next (discardFrame (if checkGood then .receiptSlot else .rejectSlot) s)

end Sys2Proof.Machine
end

