-- ==== Sys2Proof/Machine/Mailboxes.lean ====
section
/-! DEFINITION. Meanings of commands: Motion records and zone commands (sections 8.2 and 8.3). -/

namespace Sys2Proof.Machine

/-- GUN_CLOSED (R164, R92 to R94). -/
def execGunClosed (spot : BitVec 16) (s : State) : Host.Outcome State Fault Refusal :=
  .next (writeA 1 spot.toNat s)

/-- GUN_OPEN (R164, R103). -/
def execGunOpen (s : State) : Host.Outcome State Fault Refusal :=
  .next (writeA 2 0 s)

/-- TIP_DRESSED (R164, R104, R123). -/
def execTipDressed (s : State) : Host.Outcome State Fault Refusal :=
  .next (writeA 3 0 s)

/-- MOTION_KIND_REFUSED (R163, R164). -/
def execMotionKindRefused (kind : Byte) (spot : BitVec 16) (s : State) : Host.Outcome State Fault Refusal :=
  .next (writeA kind spot.toNat s)

/-- ANNOUNCE_BODY (R165, R166). -/
def execAnnounceBody (serial : BitVec 24) (style : BitVec 4) (options zoneSeq : BitVec 8) (s : State) :
    Host.Outcome State Fault Refusal :=
  .next (writeB (takeHeld (.body serial style options zoneSeq)) s)

/-- ANNOUNCE_EXIT (R165, R166). -/
def execAnnounceExit (serial : BitVec 24) (s : State) : Host.Outcome State Fault Refusal :=
  .next (writeB (takeHeld (.exit serial)) s)

/-- ANNOUNCE_DERATE (R165, R166). -/
def execAnnounceDerate (feeder : BitVec 2) (percent : BitVec 8) (s : State) : Host.Outcome State Fault Refusal :=
  .next (writeB (takeHeld (.derate feeder percent)) s)

/-- HALT_ZONE (R165, R166). -/
def execHaltZone (seconds : BitVec 8) (s : State) : Host.Outcome State Fault Refusal :=
  .next (writeB (takeHeld (.halt seconds)) s)

/-- RESUME_ZONE (R165, R166). -/
def execResumeZone (s : State) : Host.Outcome State Fault Refusal :=
  .next (writeB (takeHeld .resume) s)

/-- ABANDON_BODY (R165, R167). -/
def execAbandonBody (s : State) : Host.Outcome State Fault Refusal :=
  .next (writeB takeAbandon s)

/-- REJOIN (R21, R165, R168). -/
def execRejoin (s : State) : Host.Outcome State Fault Refusal :=
  .next (writeB takeRejoin s)

/-- RESTART (R169, R22). -/
def execRestart (s : State) : Host.Outcome State Fault Refusal :=
  .next (writeB takeRestart s)

/-- COMMAND_KIND_REFUSED (R165, R192). -/
def execCommandKindRefused (kind : Byte) (fields : BitVec 48) (s : State) : Host.Outcome State Fault Refusal :=
  .next (writeB (zoneCommand kind fields) s)

end Sys2Proof.Machine
end

