-- ==== Sys2Proof/Machine/Power.lean ====
section
/-! DEFINITION. Meanings of commands: Power and the load of the image (R22, chapter 9). -/

namespace Sys2Proof.Machine

/-- POWER_ON (R22): every block takes its reset values and a load begins. -/
def execPowerOn (s : State) : Host.Outcome State Fault Refusal :=
  .next (restartNode s)

/-- BLOCK_READ (R181): another block of the image has been read. -/
def execBlockRead (bytes : List Byte) (s : State) : Host.Outcome State Fault Refusal :=
  .next (takeBlock bytes s)

/-- HEADER_LENGTH_READ (R181, R184): the length test. -/
def execHeaderLengthRead (imageLength recordCount : BitVec 16) (s : State) : Host.Outcome State Fault Refusal :=
  .next (testLength imageLength.toNat recordCount.toNat s)

/-- IMAGE_READ_COMPLETE (R181): the read has ended and the tests of VALIDATING follow (log 13). -/
def execImageReadComplete (bytes : List Byte) (s : State) : Host.Outcome State Fault Refusal :=
  .next (completeRead bytes s)

/-- VALIDATION_END (R182 to R187): the check, the id and the header items, and the end of the load. -/
def execValidationEnd (s : State) : Host.Outcome State Fault Refusal :=
  .next (validate s)

end Sys2Proof.Machine
end

