-- ==== Sys2Proof/Machine/Clock.lean ====
section
/-! DEFINITION. The timers of the node: how long each has to run, what happens when it has run, and what the node does
when no command waits. -/

namespace Sys2Proof.Machine

/-! ### How long a timer has to run, in µs; none where it does not run -/

/-- R20: the join timer. -/
def State.joinLeft (s : State) : Option Nat := if s.zbc.node = .joining then s.zbc.joinTimer else none

/-- R28: the lapse of the row of a node id. -/
def State.lapseLeft (s : State) (id : Nat) : Option Nat := (rowOf s.plt id).map Row.lapse

/-- R43: the claim-wait timer, which counts in WAITING and OFFERED while the zone is not held. An expiry that a grant
has made void leaves the timer at its limit, and R43 does not say whether it expires again: back in WAITING in the
same visit it expires at once here (DESIGN CHOICE, log 31). -/
def State.waitLeft (s : State) : Option Nat :=
  if (s.sru.claim = .waiting ∨ s.sru.claim = .offered) ∧ s.bq.hold = false ∧ s.sru.expiryHeld = false then
    s.sru.waitTimer.map (s.waitLimitUs - ·)
  else none

/-- R95: the squeeze timer down to the claim lead, while no request stands. Where a HALT of the moment at which the
squeeze stands at the claim lead is taken first, the request waits for the end of the hold (DESIGN CHOICE, log 34). -/
def State.leadLeft (s : State) : Option Nat :=
  if s.ssq.state = .squeeze ∧ s.sru.request = none ∧ s.bq.hold = false then some (s.squeezeLeft - s.leadUs) else none

/-- R67: the hold timer of the zone hold. -/
def State.holdTimerLeft (s : State) : Option Nat := if s.bq.hold then s.bq.holdTimer else none

/-- R95, R96: the squeeze timer down to 0. -/
def State.squeezeEndLeft (s : State) : Option Nat :=
  if s.ssq.state = .squeeze ∧ s.bq.hold = false then some s.squeezeLeft else none

/-- R101: the hold timer of the spot in hand. -/
def State.holdLeft (s : State) : Option Nat :=
  if s.ssq.state = .hold then s.ssq.inHand.map SpotInHand.holdLeft else none

/-- R112: the move timer up to the late threshold. Where a HALT of the moment at which it stands there is taken first,
ROBOT_LATE waits for the end of the hold (DESIGN CHOICE, log 33). -/
def State.moveLeft (s : State) : Option Nat :=
  if s.bq.hold then none else s.lateAt.map (· - s.ssq.moveTimer)

/-- R144: the time to the next update of the stage link. -/
def State.updateLeft (s : State) : Option Nat := if s.sgl.link = .idle then none else some s.sgl.updateIn

/-! ### What happens when it has run -/

/-- R43: the claim-wait timer expires: at once in WAITING, held in OFFERED until the outcome is reported. -/
def claimWaitExpired (s : State) : State :=
  if s.sru.claim = .offered then s.modSru fun u => { u with expiryHeld := true } else timeOutClaim s

/-- R101, R91: hold end closes the spot in hand. R147: in FAULT the zero frames go on through the hold until its end, so
a frame due at that moment is sent before the spot is closed, as the 120 frames of a hold of 60 ms in the worked
example of spec/07 show. -/
def endHold (s : State) : State := closeSpot (if s.sgl.link = .fault ∧ s.sgl.updateIn = 0 then updateStage s else s)

/-- Log 2: a timer event: the time its timer has to run passes, and the event is taken. Where the timer does not run
the event has not come (log 3). -/
def onTimer (left : Option Nat) (event : State → State) (s : State) : State :=
  match left with
  | none => s
  | some n => event (elapse n s)

/-! ### The clock -/

/-- The row whose lapse has run out, of lowest node id. -/
def State.lapsedRow (s : State) : Option Nat :=
  (List.range 32).find? fun id => s.lapseLeft id == some 0

/-- R95: squeeze end is an event of its own only where it leads to FIRING. -/
def State.fireDue (s : State) : Bool := decide (s.squeezeEndLeft = some 0 ∧ s.sru.claim = .granted)

/-- Log 2: with no command waiting, the node takes one timer event that is due, in this order, or lets 1 µs pass.
That the stage update stands before hold end is no choice: the zero frames of FAULT go on to the end of the hold (R147,
and the 120 frames of the worked example of spec/07). -/
def clock (s : State) : State :=
  if s.joinLeft = some 0 then joinDone s
  else match s.lapsedRow with
  | some id => lapseRow id s
  | none =>
    if s.waitLeft = some 0 then claimWaitExpired s
    else if s.leadLeft = some 0 then raiseRequest s
    else if s.holdTimerLeft = some 0 then clearHold 3 s
    else if s.fireDue then fireIfReady s
    else if s.updateLeft = some 0 then updateStage s
    else if s.holdLeft = some 0 then endHold s
    else if s.moveLeft = some 0 then raiseLate s
    else elapse 1 s

end Sys2Proof.Machine
end

