-- ==== Sys2Proof/Machine/StageEvents.lean ====
section
/-! DEFINITION. Meanings of commands: The stage link (chapter 7). -/

namespace Sys2Proof.Machine

/-- STAGE_UPDATE (R125, R144, R146). -/
def execStageUpdate (s : State) : Host.Outcome State Fault Refusal :=
  .next (onTimer s.updateLeft updateStage s)

/-- SAMPLE_FRAME (R145, R150, R153). -/
def execSampleFrame (bytes : List Byte) (s : State) : Host.Outcome State Fault Refusal :=
  .next (receiveSample bytes s)

end Sys2Proof.Machine
end

