-- ==== Sys2Proof/Machine/TimerEvents.lean ====
section
/-! DEFINITION. Meanings of commands: Timers of the node that run out. -/

namespace Sys2Proof.Machine

/-- JOIN_TIMER_EXPIRY (R20). -/
def execJoinTimerExpiry (s : State) : Host.Outcome State Fault Refusal :=
  .next (onTimer s.joinLeft joinDone s)

/-- ROW_LAPSE (R28, R46). -/
def execRowLapse (node : BitVec 5) (s : State) : Host.Outcome State Fault Refusal :=
  .next (onTimer (s.lapseLeft node.toNat) (lapseRow node.toNat) s)

/-- CLAIM_WAIT_EXPIRY (R43). -/
def execClaimWaitExpiry (s : State) : Host.Outcome State Fault Refusal :=
  .next (onTimer s.waitLeft claimWaitExpired s)

/-- CLAIM_LEAD_REACHED (R95, R33). -/
def execClaimLeadReached (s : State) : Host.Outcome State Fault Refusal :=
  .next (onTimer s.leadLeft raiseRequest s)

/-- HOLD_TIMER_EXPIRY (R67, R68). -/
def execHoldTimerExpiry (s : State) : Host.Outcome State Fault Refusal :=
  .next (onTimer s.holdTimerLeft (clearHold 3) s)

/-- SQUEEZE_END (R96). -/
def execSqueezeEnd (s : State) : Host.Outcome State Fault Refusal :=
  .next (onTimer s.squeezeEndLeft fireIfReady s)

/-- HOLD_END (R101, R91, R147). -/
def execHoldEnd (s : State) : Host.Outcome State Fault Refusal :=
  .next (onTimer s.holdLeft endHold s)

/-- ROBOT_LATE (R112). -/
def execRobotLate (s : State) : Host.Outcome State Fault Refusal :=
  .next (onTimer s.moveLeft raiseLate s)

end Sys2Proof.Machine
end

