-- ==== Sys2Proof/Machine/Dispatch.lean ====
section
/-! DEFINITION. One arm for each command: the meaning it has. -/

namespace Sys2Proof.Machine

def exec (i : Instr) (s : State) : Host.Outcome State Fault Refusal :=
  match i with
  | .powerOn => Sys2Proof.Machine.execPowerOn s
  | .blockRead bytes => Sys2Proof.Machine.execBlockRead bytes s
  | .headerLengthRead imageLength recordCount => Sys2Proof.Machine.execHeaderLengthRead imageLength recordCount s
  | .imageReadComplete bytes => Sys2Proof.Machine.execImageReadComplete bytes s
  | .joinTimerExpiry => Sys2Proof.Machine.execJoinTimerExpiry s
  | .idlePoint => Sys2Proof.Machine.execIdlePoint s
  | .bitError heard => Sys2Proof.Machine.execBitError heard s
  | .ownFrameRejected => Sys2Proof.Machine.execOwnFrameRejected s
  | .ownFrameCompleted receipt => Sys2Proof.Machine.execOwnFrameCompleted receipt s
  | .insertionViolation => Sys2Proof.Machine.execInsertionViolation s
  | .frameDiscarded checkGood => Sys2Proof.Machine.execFrameDiscarded checkGood s
  | .invalidFrame f => Sys2Proof.Machine.execInvalidFrame f s
  | .ownIdFrame f => Sys2Proof.Machine.execOwnIdFrame f s
  | .haltFrame arb seconds => Sys2Proof.Machine.execHaltFrame arb seconds s
  | .resumeFrame arb => Sys2Proof.Machine.execResumeFrame arb s
  | .bodyFrame arb serial style options zoneSeq => Sys2Proof.Machine.execBodyFrame arb serial style options zoneSeq s
  | .exitFrame arb serial => Sys2Proof.Machine.execExitFrame arb serial s
  | .derateFrame arb feeder percent => Sys2Proof.Machine.execDerateFrame arb feeder percent s
  | .claimFrame arb feeder load lapse zoneSeq spotId => Sys2Proof.Machine.execClaimFrame arb feeder load lapse zoneSeq spotId s
  | .releaseFrame arb feeder spotId => Sys2Proof.Machine.execReleaseFrame arb feeder spotId s
  | .rowLapse node => Sys2Proof.Machine.execRowLapse node s
  | .claimWaitExpiry => Sys2Proof.Machine.execClaimWaitExpiry s
  | .claimLeadReached => Sys2Proof.Machine.execClaimLeadReached s
  | .holdTimerExpiry => Sys2Proof.Machine.execHoldTimerExpiry s
  | .squeezeEnd => Sys2Proof.Machine.execSqueezeEnd s
  | .holdEnd => Sys2Proof.Machine.execHoldEnd s
  | .robotLate => Sys2Proof.Machine.execRobotLate s
  | .stageUpdate => Sys2Proof.Machine.execStageUpdate s
  | .sampleFrame bytes => Sys2Proof.Machine.execSampleFrame bytes s
  | .gunClosed spot => Sys2Proof.Machine.execGunClosed spot s
  | .gunOpen => Sys2Proof.Machine.execGunOpen s
  | .tipDressed => Sys2Proof.Machine.execTipDressed s
  | .motionKindRefused kind spot => Sys2Proof.Machine.execMotionKindRefused kind spot s
  | .announceBody serial style options zoneSeq => Sys2Proof.Machine.execAnnounceBody serial style options zoneSeq s
  | .announceExit serial => Sys2Proof.Machine.execAnnounceExit serial s
  | .announceDerate feeder percent => Sys2Proof.Machine.execAnnounceDerate feeder percent s
  | .haltZone seconds => Sys2Proof.Machine.execHaltZone seconds s
  | .resumeZone => Sys2Proof.Machine.execResumeZone s
  | .abandonBody => Sys2Proof.Machine.execAbandonBody s
  | .rejoin => Sys2Proof.Machine.execRejoin s
  | .restart => Sys2Proof.Machine.execRestart s
  | .commandKindRefused kind fields => Sys2Proof.Machine.execCommandKindRefused kind fields s
  | .readReport => Sys2Proof.Machine.execReadReport s
  | .readStatus => Sys2Proof.Machine.execReadStatus s
  | .setMask mask => Sys2Proof.Machine.execSetMask mask s
  | .clearFlags set => Sys2Proof.Machine.execClearFlags set s
  | .setCursor table index => Sys2Proof.Machine.execSetCursor table index s
  | .readRow => Sys2Proof.Machine.execReadRow s
  | .cutShortTransaction bytes => Sys2Proof.Machine.execCutShortTransaction bytes s
  | .startBit => Sys2Proof.Machine.execStartBit s
  | .validationEnd => Sys2Proof.Machine.execValidationEnd s

end Sys2Proof.Machine
end

