-- ==== Sys2Proof/Safety.lean ====
section
/-! DEFINITION. What claims about the node are stated in: the bounds every state of a run stays in, and the situations
in which a command finds the node. -/

namespace Sys2Proof.Machine

/-! ### The bounds of the spec's ranges -/

/-- R17, R22: the Zone Bus Controller counts at most 16 failures. -/
def Zbc.Bounded (z : Zbc) : Prop := z.failures ≤ Config.silentAfter

/-- R23, R24: 31 rows, a lapse of at most 514 ms, a derate percent of 50..100. -/
def Plt.Bounded (p : Plt) : Prop :=
  p.rows.length = 31 ∧ (∀ r, some r ∈ p.rows → r.lapse ≤ 514 * Config.usPerMs) ∧ 50 ≤ p.derate ∧ p.derate ≤ 100

/-- R50, R52, R62: at most 8 bodies, no serial twice, 8 pitch entries of 1..65535. -/
def Bq.Bounded (b : Bq) : Prop :=
  b.queue.length ≤ Config.queueMax ∧ (b.queue.map BodyRecord.serial).Nodup ∧
    b.history.length = 8 ∧ ∀ n ∈ b.history, 1 ≤ n ∧ n ≤ 65535

/-- R105: at most 8 deferred spots. -/
def Ssq.Bounded (q : Ssq) : Prop := q.deferred.length ≤ Config.deferredMax

/-- R121, R123, R125: G is a current code, no setpoint and no starting setpoint of an abort exceeds it, and W lies in
0..65535. -/
def Cpg.Bounded (c : Cpg) : Prop :=
  c.g ≤ Config.maxCode ∧ c.setpoint ≤ c.g ∧ (∀ a, c.abort = some a → a.s0 ≤ c.g) ∧ c.w ≤ 65535

/-- R151: nine pulse results. -/
def Wmn.Bounded (m : Wmn) : Prop := m.results.length = 9

/-- R143: update numbers 0..255, at most 3 missing answers. -/
def Sgl.Bounded (g : Sgl) : Prop := g.nextNum < 256 ∧ g.missing ≤ Config.linkMissing

/-- R171, R177: at most 16 reports, report numbers 0..255, the cursor on a row of its table or at its end. -/
def Rlk.Bounded (k : Rlk) : Prop :=
  k.fifo.length ≤ Config.fifoMax ∧ k.counter < 256 ∧ tableFirst k.cursorTable ≤ k.cursorIndex ∧
    k.cursorIndex ≤ tableEnd k.cursorTable

/-- Every block lies in the bounds the spec gives it. -/
structure State.Bounded (s : State) : Prop where
  zbc : s.zbc.Bounded
  plt : s.plt.Bounded
  bq : s.bq.Bounded
  ssq : s.ssq.Bounded
  cpg : s.cpg.Bounded
  wmn : s.wmn.Bounded
  sgl : s.sgl.Bounded
  rlk : s.rlk.Bounded

/-! ### Situations -/

/-- The node decodes the line, sends nothing, and has chosen nothing to send: a frame it hears is another node's. -/
def State.listening (s : State) : Bool := s.decodes && decide (s.zbc.wire = none ∧ s.zbc.chosen = none)

/-- The node's own frame is on the wire: the slot and the frame it holds. -/
def State.sending (s : State) (slot : Slot) (f : Frame) : Prop :=
  s.zbc.chosen = none ∧ s.zbc.wire = some slot ∧ slotFrame s.zbc slot = some f

/-- R9 to R11: a frame of another node, in its ranges and not under the own id. -/
def State.peerFrame (s : State) (f : Frame) : Prop := frameValid f = true ∧ f.arb.sender.toNat ≠ s.settings.ownId

/-- R162, R163: the robot link takes commands. -/
def State.linkTakes (s : State) : Prop := s.zbc.node ≠ .loading ∧ s.zbc.node ≠ .inert

/-- R161: what the node has shifted out when a transaction that carries data in, of fixed length `n`, is complete: the
port byte, zero bytes to its end, and a zero byte for each byte clocked beyond it. -/
def State.afterDataIn (s : State) (n : Nat) : State :=
  { s with rlk := { s.rlk with
      out := s.portByte :: (List.replicate (n - 1) 0 ++ List.replicate s.clockedBeyond 0) } }

/-- R166: the node once it has taken a held command: the command in mailbox B, its frame, of this precedence and the
own id, in the ANNOUNCE slot, and an arbitration start (R14). -/
def State.withHeld (s : State) (prec : BitVec 4) (b : FrameBody) : State :=
  callArbitration
    { s with
      rlk := { s.rlk with mailbox := some b },
      zbc := { s.zbc with
        announceSlot := some { arb := { prec := prec, sender := BitVec.ofNat 5 s.settings.ownId }, body := b } } }

/-- R192, R193: the codes that the records the robot controller reads are made of. -/
def recordCodes : Prop :=
  [NodeState.loading, .inert, .joining, .run, .silent].map nodeCode = [0, 1, 2, 3, 4] ∧
  [LoadPhase.reading, .validating, .good, .bad].map loadPhaseCode = [0, 1, 2, 3] ∧
  [LoadReason.none, .length, .check, .id, .field].map loadReasonCode = [0, 1, 2, 3, 4] ∧
  [SsqState.idle, .awaitGun, .squeeze, .firing, .hold].map ssqCode = [0, 1, 2, 3, 4] ∧
  [Pass.main, .revisit].map passCode = [0, 1] ∧
  [ClaimState.none, .waiting, .offered, .granted, .releasing].map claimCode = [0, 1, 2, 3, 4] ∧
  [Outcome.pending, .deferred, .good, .suspect, .aborted, .missed].map outcomeCode = [0, 1, 2, 3, 4, 5] ∧
  [Cause.none, .claimTimeout, .oversize, .badSchedule, .skipped, .exited, .deferFull, .stage, .halted, .gunOpened,
    .high, .noCurrent, .link].map causeCode = [0, 1, 2, 3, 4, 5, 6, 7, 8, 9, 10, 11, 12] ∧
  [Worst.ok, .low, .high, .none].map worstCode = [0, 1, 2, 3] ∧
  [Mark.absent, .unusable, .usable].map markCode = [0, 1, 2] ∧
  [Table.plt, .bq, .plan, .deferred, .pitch, .learned, .schedule].map tableCode = [1, 2, 3, 4, 5, 6, 7] ∧
  [Flag.imageBad, .scheduleBad, .joinDone, .busSilent, .idClash, .alone, .bodyDropped, .bodyDuplicate, .bodyGap,
    .spotMismatch, .robotLate, .mailboxOverrun, .commandRefused, .zoneHoldChange, .tipDressDue, .reportLost].map flagBit =
    [0, 1, 2, 3, 4, 5, 6, 7, 8, 9, 10, 11, 12, 13, 14, 15]

/-- R176, R193: the status record gives this spot id as the expected one. -/
def State.showsSpot (s : State) (spot : Nat) : Prop :=
  s.statusRecord[9]? = some (byte (spot / 256)) ∧ s.statusRecord[10]? = some (byte spot)

/-- R5, R18: the node at the reject slot of a frame it has heard to its end: the line busy until the next idle point,
and `d` driven, or nothing in SILENT. -/
def State.afterHearing (s : State) (d : Drive) : State :=
  { s with zbc := { s.zbc with
      line := .busy, drive := if s.zbc.node = .silent then .recessive else d, clashTold := false } }

/-- The situations of R125 to R150 in which an update falls due that finds no LINK fault: the stage link ACTIVE, the
update before answered, or unanswered as the first or the second in a row (R146). -/
def State.updateDue (s : State) (p : Phase) : Prop :=
  s.sgl.link = .active ∧ (s.sgl.answered = true ∨ s.sgl.missing < 2) ∧ s.sgl.updateIn = 0 ∧ s.cpg.phase = p

/-- R146: the consecutive-missing count at an update: one more where the update before was not answered. -/
def Sgl.missingNow (g : Sgl) : Nat := if g.answered then g.missing else g.missing + 1

/-- R144: the stage link once it has sent the frame that carries a setpoint. -/
def State.withSetpoint (s : State) (v : Nat) : State :=
  { s with
    cpg := { s.cpg with setpoint := v, count := s.cpg.count + 1 },
    sgl := { s.sgl with
      missing := s.sgl.missingNow, lastFrame := setpointFrame s.sgl.nextNum v,
      nextNum := (s.sgl.nextNum + 1) % 256, answered := false, updateIn := 500 } }

/-- R131, R152, R153: the node at the first update of a pulse of this schedule: the pulse index one higher, the Weld
Monitor at position 1 of the pulse with its thresholds from G, and a setpoint of G. -/
def State.withPulse (s : State) (c : Schedule) : State :=
  { s with
    cpg := { s.cpg with phase := .pulse, count := 0, pulseIdx := s.cpg.pulseIdx + 1 },
    wmn := { s.wmn with
      pulseIdx := s.cpg.pulseIdx + 1, len := 2 * c.pulse, blank := 2 * c.pulse * c.blank / 128, pos := 1, iSum := 0,
      vSum := 0, judged := 0, noneBelow := s.cpg.g / 8, lowBelow := s.cpg.g * c.windowLow / 100,
      highAbove := (s.cpg.g * c.windowHigh + 99) / 100 } }.withSetpoint s.cpg.g

/-- R123, R124, R127: the node with the current of a spot begun: the spot counted in W, which saturates, and
TIP_DRESS_DUE raised where W rises to the dress limit. -/
def State.withBegun (s : State) : State :=
  { (if s.cpg.w < 65535 ∧ s.cpg.w + 1 = s.pst.dressLimit then
      raise .tipDressDue (byte ((s.cpg.w + 1) / 256)) (byte (s.cpg.w + 1)) 0 0 s
    else s) with cpg := { s.cpg with begun := true, w := min 65535 (s.cpg.w + 1) } }

/-- R136: the current has begun and no abort runs. -/
def State.inCurrent (s : State) : Prop :=
  s.cpg.phase = .upslope ∨ s.cpg.phase = .pulse ∨ s.cpg.phase = .cool ∨ s.cpg.phase = .downslope

/-- R136: the Current Profile Generator once it has taken an abort of this cause on this path. -/
def State.cpgAborting (s : State) (cause : Cause) (path : AbortPath) : Cpg :=
  { s.cpg with phase := .aborting, count := 0, abort := some { cause := cause, path := path, s0 := s.cpg.setpoint } }

/-- R156: the Weld Monitor once an abort is taken: a pulse in progress is recorded CUT, and its sums and its judged
count are discarded. -/
def State.wmnCut (s : State) : Wmn :=
  if s.cpg.phase = .pulse then
    { s.wmn with results := s.wmn.results.set (s.wmn.pulseIdx - 1) .cut, iSum := 0, vSum := 0, judged := 0 }
  else s.wmn

/-- R102: the result fields of a spot closed without current. -/
def withoutCurrent : SpotResult := { worst := .ok, mean := 0, res := 0, pulses := 0, ext := false }

/-- R90, R91: the spot in hand is the one at the cursor of MAIN, no current was recorded for it, the body goes on, and a
spot of a USABLE schedule follows in the plan. -/
def State.midPlan (s : State) (h : SpotInHand) (e next : PlanEntry) (b : ActiveBody) : Prop :=
  s.ssq.inHand = some h ∧ h.planIdx = s.ssq.cursor ∧ h.result = none ∧ s.ssq.active = some b ∧ s.ssq.pass = .main ∧
    s.ssq.ending = false ∧ s.ssq.plan[s.ssq.cursor]? = some e ∧ s.ssq.plan[s.ssq.cursor + 1]? = some next ∧
    (scheduleOf s.pst next.sched).mark = .usable ∧ s.sgl.link ≠ .fault

/-- R90, R91, R110: the sequencer once the spot at the cursor of MAIN is closed MISSED: its entry is final, it stands in
no deferred list, and the next spot is awaited with the move timer opened at 0. -/
def State.ssqMissed (s : State) (cause : Cause) : Ssq :=
  { s.ssq with
    state := .awaitGun, inHand := none, cursor := s.ssq.cursor + 1, moveTimer := 0, moveOpen := true, late := false,
    plan := s.ssq.plan.modify s.ssq.cursor fun e => { e with outcome := .missed, cause := cause },
    deferred := s.ssq.deferred.filter fun i => decide (i ≠ s.ssq.cursor) }

/-- R102: the Robot Link once the SPOT-DONE of a spot of MAIN, MISSED without current, is queued. -/
def State.rlkMissed (s : State) (b : ActiveBody) (e : PlanEntry) (cause : Cause) (early : Bool) : Rlk :=
  (generate (.spotDone b.serial b.zoneSeq e.spotId .main .missed cause withoutCurrent early) s).rlk

/-- R117: the sequencer once EXIT or ABANDON has reached the active body with the spot of this plan index in hand: every
other PENDING or DEFERRED entry is MISSED EXITED and off the deferred list, and the body is ending. -/
def State.ssqExited (s : State) (inHand : Nat) : Ssq :=
  { s.ssq with
    ending := true,
    deferred := s.ssq.deferred.filter fun i => decide (i = inHand),
    plan := s.ssq.plan.mapIdx fun i e =>
      if i ≠ inHand ∧ (e.outcome = .pending ∨ e.outcome = .deferred) then { e with outcome := .missed, cause := .exited }
      else e }

/-- R43, R91: the Slot Request Unit, its claim in this state, once a visit has ended. -/
def Sru.visitOver (u : Sru) (claim : ClaimState) : Sru :=
  { u with claim := claim, request := none, waitTimer := none, expiryHeld := false, visitRequested := false }

/-- R45: what a release order leaves where the own row was `r`: the claim RELEASING, and, in JOINING and RUN, the
RELEASE of the own feeder and the spot of the row in its slot; in SILENT no RELEASE is queued. -/
def State.releasedIn (s t : State) (r : Row) : Prop :=
  t.sru.claim = .releasing ∧
    (s.zbc.node = .joining ∨ s.zbc.node = .run → t.zbc.releaseSlot = some {
      arb := { prec := 2, sender := BitVec.ofNat 5 s.settings.ownId },
      body := .release (BitVec.ofNat 2 s.settings.feeder) (BitVec.ofNat 10 r.spotId) }) ∧
    (s.zbc.node = .silent → t.zbc.releaseSlot = s.zbc.releaseSlot)

/-- R43 to R45, R91: `t` has the claim and the slots of `s` once the visit of the spot in hand has ended: a WAITING claim
goes to NONE with a CLAIM chosen and not begun emptied, an OFFERED one is withdrawn, a GRANTED one is released. That the
pending claim record of a RELEASING claim stands is log 38. -/
def State.visitEndedIn (s t : State) : Prop :=
  (s.sru.claim = .none ∨ s.sru.claim = .releasing → t.sru = s.sru.visitOver s.sru.claim ∧ t.zbc = s.zbc) ∧
  (s.sru.claim = .waiting → t.sru = { s.sru.visitOver .none with record := none } ∧
    (s.zbc.chosen ≠ some .claim → t.zbc = s.zbc) ∧
    (s.zbc.chosen = some .claim → t.zbc = { s.zbc with chosen := none, startIn := 0, claimSlot := none })) ∧
  (s.sru.claim = .offered → t.zbc = s.zbc ∧
    t.sru = { s.sru.visitOver .offered with withdrawn := true, expiryHeld := t.sru.expiryHeld }) ∧
  ∀ r, s.sru.claim = .granted → s.ownRow = some r → s.releasedIn t r ∧
    t.sru = { s.sru.visitOver .releasing with record := t.sru.record } ∧
    t.zbc = { s.zbc with
      releaseSlot := t.zbc.releaseSlot, releaseCancelled := t.zbc.releaseCancelled, chosen := t.zbc.chosen,
      startIn := t.zbc.startIn, claimSlot := t.zbc.claimSlot }

/-- R33, R44, R114: `t` has the claim and the sequencer of `s` once the zone hold has cleared: a spot in SQUEEZE has the
full squeeze of its schedule to run, and a request raised before its claim lead is cancelled, its visit and the timer of
the visit kept. The pending claim record is left open: an arbitration start is made as well (R49), and which of the two
comes first no rule says (log 37). -/
def State.holdEndedIn (s t : State) : Prop :=
  (s.ssq.state ≠ .squeeze → t.ssq = s.ssq ∧ t.sru = { s.sru with record := t.sru.record }) ∧
  ∀ h e, s.ssq.state = .squeeze → s.ssq.inHand = some h → s.ssq.plan[h.planIdx]? = some e →
    let full := (scheduleOf s.pst e.sched).squeeze * 1000
    t.ssq = { s.ssq with inHand := some { h with squeezeLeft := full } } ∧
    (full ≤ s.settings.claimLead * 1000 ∨ s.sru.request = none → t.sru = { s.sru with record := t.sru.record }) ∧
    (s.settings.claimLead * 1000 < full → s.sru.request.isSome → t.sru = { s.sru with
      request := none, record := t.sru.record, withdrawn := t.sru.withdrawn,
      claim := match s.sru.claim with
        | .none => .none
        | .waiting => .none
        | .offered => .offered
        | .granted => .releasing
        | .releasing => .releasing } ∧ (s.sru.claim = .offered → t.sru.withdrawn = true))

/-- R121, R128: the Current Profile Generator out of a spot: OFF with no spot in hand and setpoint 0, and W as it was.
What else it keeps is log 15. -/
def Cpg.offAfter (c c' : Cpg) : Prop :=
  c'.phase = .off ∧ c'.spot = none ∧ c'.setpoint = 0 ∧ c'.w = c.w

/-- R84, R108, R120: the sequencer once its body is over: IDLE, with no body, plan or spot, the move timer closed and the
learned move times kept. Its pass is left open (log 32). -/
def Ssq.idleAfter (q q' : Ssq) : Prop :=
  q' = { q with
    state := .idle, pass := q'.pass, active := none, plan := [], cursor := 0, deferred := [], ending := false,
    inHand := none, moveOpen := false }

/-- R109, R117, R120: the BODY-DONE of the active body once EXIT or ABANDON has ended it with no current running: every
spot that had no final outcome counts as MISSED. -/
def State.exitedReport (s : State) (b : ActiveBody) : Report :=
  let count (p : Outcome → Bool) := (s.ssq.plan.filter fun e => p e.outcome).length
  .bodyDone b.serial b.zoneSeq b.style b.program false true (count (· = .good)) (count (· = .suspect))
    (count (· = .aborted)) (count fun o => o = .missed ∨ o = .pending ∨ o = .deferred) s.bodyE

/-- R117: the spot in hand of the active body has no outcome yet, the body is the only one queued and is not ending. -/
def State.exitable (s : State) (r : BodyRecord) (b : ActiveBody) (h : SpotInHand) (e : PlanEntry) : Prop :=
  s.ssq.inHand = some h ∧ h.result = none ∧ s.ssq.active = some b ∧ s.ssq.plan[h.planIdx]? = some e ∧
    (e.outcome = .pending ∨ e.outcome = .deferred) ∧ s.ssq.ending = false ∧ s.sgl.link ≠ .fault ∧ s.bq.queue = [r]

/-- R91, R100, R102, R117, R120: `t` is `s` once EXIT or ABANDON has ended the active body with this spot in SQUEEZE or
PRESTART: its visit ends, its SPOT-DONE tells MISSED EXITED, and then the BODY-DONE follows, the head leaves the queue
and the sequencer is IDLE; from PRESTART the Current Profile Generator is OFF and the stage link IDLE. -/
def State.bodyExitedIn (s t : State) (b : ActiveBody) (h : SpotInHand) (e : PlanEntry) : Prop :=
  s.visitEndedIn t ∧ s.ssq.idleAfter t.ssq ∧
  t = { s with
    zbc := t.zbc, sru := t.sru, bq := { s.bq with queue := [] }, ssq := t.ssq, cpg := t.cpg, sgl := t.sgl,
    rlk := (generate (s.exitedReport b) (generate
      (.spotDone b.serial b.zoneSeq e.spotId s.ssq.pass .missed .exited withoutCurrent h.earlyOpen) s)).rlk } ∧
  (s.ssq.state = .squeeze → t.cpg = s.cpg ∧ t.sgl = s.sgl) ∧
  (s.ssq.state = .firing →
    s.cpg.offAfter t.cpg ∧ t.sgl = { s.sgl with link := .idle, updateIn := t.sgl.updateIn })

/-- Log 2: no timer of the node has run out. -/
def State.nothingDue (s : State) : Prop :=
  s.joinLeft ≠ some 0 ∧ (∀ id, id < 32 → s.lapseLeft id ≠ some 0) ∧ s.waitLeft ≠ some 0 ∧ s.leadLeft ≠ some 0 ∧
    s.holdTimerLeft ≠ some 0 ∧ s.fireDue = false ∧ s.holdLeft ≠ some 0 ∧ s.moveLeft ≠ some 0 ∧
    s.updateLeft ≠ some 0

end Sys2Proof.Machine
end

