-- ==== Sys2Proof/Certificates/Slice0/Obligations.lean ====
section
/-! DEFINITION. Statements about the node, for the provers. -/

open Sys2Proof Sys2Proof.Machine

/-! ### Steps, time and reset -/

/-- The task's queue: a step takes the command that has waited longest and runs it. -/
def Obligations.StepRunsFrontCommand : Prop :=
  ∀ (c : Instr) (rest : List Instr) (s : State), s.pending = c :: rest →
    step s = exec c { s with pending := rest }

/-- R20, R28, R43, R60, R64, R86, R95, R101, R110, R113, R144: which timers run with elapsed time, and which the zone
hold freezes. Where `n` is longer than the rest of a timer it says what the model chooses (log 28, DESIGN CHOICE):
that timer stands at 0, or at its limit, with its event still to come. -/
def Obligations.ElapsedTimeRunsEveryTimer : Prop :=
  ∀ (n : Nat) (s : State), 0 < n → s.zbc.chosen = none →
    (∀ id, rowOf (elapse n s).plt id = (rowOf s.plt id).map fun r => { r with lapse := r.lapse - n }) ∧
    (elapse n s).zbc.joinTimer = s.zbc.joinTimer.map (fun t => t - n) ∧
    (elapse n s).bq = { s.bq with pitchTimer := s.bq.pitchTimer.map (fun t => t + n),
                                  holdTimer := s.bq.holdTimer.map (fun t => t - n) } ∧
    (s.bq.hold = true → (elapse n s).ssq.bodyTime = s.ssq.bodyTime ∧
      (elapse n s).ssq.moveTimer = s.ssq.moveTimer ∧ (elapse n s).squeezeLeft = s.squeezeLeft ∧
      (elapse n s).sru.waitTimer = s.sru.waitTimer) ∧
    (s.bq.hold = false → s.sru.claim = .waiting ∨ s.sru.claim = .offered →
      (elapse n s).sru.waitTimer =
        s.sru.waitTimer.map fun t => min (t + n) (s.settings.claimWaitLimit * 1000)) ∧
    (s.sru.claim = .none ∨ s.sru.claim = .granted ∨ s.sru.claim = .releasing →
      (elapse n s).sru.waitTimer = s.sru.waitTimer) ∧
    (s.bq.hold = false → s.ssq.active.isSome →
      (elapse n s).ssq.bodyTime = min (s.ssq.bodyTime + n) (65535 * 10000)) ∧
    (s.bq.hold = false → s.ssq.moveOpen = true →
      (elapse n s).ssq.moveTimer = min (s.ssq.moveTimer + n) (262143 * 10000)) ∧
    (s.bq.hold = false → s.ssq.state = .squeeze → (elapse n s).squeezeLeft = s.squeezeLeft - n) ∧
    (s.ssq.state = .hold → (elapse n s).holdLeft = s.holdLeft.map (fun t => t - n)) ∧
    (elapse n s).sgl =
      { s.sgl with updateIn := if s.sgl.link = .idle then s.sgl.updateIn else s.sgl.updateIn - n } ∧
    (elapse n s).rlk = s.rlk ∧ (elapse n s).cpg = s.cpg ∧ (elapse n s).wmn = s.wmn ∧ (elapse n s).pst = s.pst ∧
    (elapse n s).settings = s.settings ∧ (elapse n s).iml = s.iml ∧ (elapse n s).pending = s.pending

/-- Log 2 (the model's choice, not the spec's): with no command and no timer due, 1 µs passes; and a timer's command
takes effect as if the time its timer has to run had passed before it. For ROBOT_LATE the learned move times and the
late margin lie in the ranges of R84 and R112, so that the threshold lies below the saturation of the move timer. -/
def Obligations.TimePassesUpToEachTimer : Prop :=
  ∀ (n : Nat) (s : State),
    (s.pending = [] → s.nothingDue → step s = .next (elapse 1 s)) ∧
    (s.joinLeft = some n → exec .joinTimerExpiry s = exec .joinTimerExpiry (elapse n s)) ∧
    (∀ id : BitVec 5, s.lapseLeft id.toNat = some n → exec (.rowLapse id) s = exec (.rowLapse id) (elapse n s)) ∧
    (s.waitLeft = some n → exec .claimWaitExpiry s = exec .claimWaitExpiry (elapse n s)) ∧
    (s.leadLeft = some n → exec .claimLeadReached s = exec .claimLeadReached (elapse n s)) ∧
    (s.holdTimerLeft = some n → exec .holdTimerExpiry s = exec .holdTimerExpiry (elapse n s)) ∧
    (s.squeezeEndLeft = some n → exec .squeezeEnd s = exec .squeezeEnd (elapse n s)) ∧
    (s.holdLeft = some n → exec .holdEnd s = exec .holdEnd (elapse n s)) ∧
    ((∀ i, s.ssq.learned.getD i 0 ≤ 65535) → s.settings.lateMargin ≤ 255 → s.moveLeft = some n →
      exec .robotLate s = exec .robotLate (elapse n s)) ∧
    (s.updateLeft = some n → exec .stageUpdate s = exec .stageUpdate (elapse n s))

/-- Log 3 (the model's choice, not the spec's): every command answers a next state in every state, one whose condition
does not hold included: it leaves the state as it is. It says that nothing stops the node, and nothing of any effect. -/
def Obligations.EveryCommandAnswersANextState : Prop :=
  ∀ (c : Instr) (s : State), ∃ t, exec c s = .next t

/-- R22, R24, R33, R51, R69, R84, R121, R143, R151, R165, R171, R173, R175, R177, R180: what reset leaves, block by
block: every item to which a rule gives a value there. The fields of log 5, to which none does, are left out. -/
def Obligations.ResetLeavesTheNodeLoading : Prop :=
  let s := State.reset
  (s.zbc.node = .loading ∧ s.zbc.claimSlot = none ∧ s.zbc.releaseSlot = none ∧ s.zbc.announceSlot = none ∧
    s.zbc.failures = 0 ∧ s.zbc.joinTimer = none ∧ s.zbc.wire = none ∧ s.zbc.line = .busy ∧ s.decodes = false) ∧
  ((∀ id, rowOf s.plt id = none) ∧ s.plt.derate = 100) ∧
  (s.sru.claim = .none ∧ s.sru.request = none ∧ s.sru.record = none ∧ s.sru.waitTimer = none ∧
    s.sru.withdrawn = false) ∧
  (s.bq.queue = [] ∧ s.bq.arrivalNext = 0 ∧ s.bq.lastSeq = none ∧ s.bq.pitchTimer = none ∧
    s.bq.history = List.replicate 8 1 ∧ s.bq.hold = false ∧ s.bq.holdTimer = none) ∧
  ((∀ style, styleProgram s.pst style = none) ∧ (∀ n, (programOf s.pst n).mark = .absent) ∧
    (∀ i, recordOf s.pst i = { spotId := 0, sched := 0, mask := 0, expect := 0 }) ∧
    (∀ n, (scheduleOf s.pst n).mark = .absent) ∧ s.pst.bands = [] ∧ (∀ w, boostOf s.pst w = 0) ∧
    s.pst.dressLimit = 0) ∧
  (s.ssq.state = .idle ∧ s.ssq.pass = .main ∧ s.ssq.active = none ∧ s.ssq.plan = [] ∧ s.ssq.cursor = 0 ∧
    s.ssq.deferred = [] ∧ s.ssq.ending = false ∧ s.ssq.inHand = none ∧ s.bodyE = 0 ∧ s.ssq.bodyTime = 0 ∧
    s.ssq.moveTimer = 0 ∧ s.ssq.moveOpen = false ∧ s.ssq.late = false ∧ ∀ i, s.ssq.learned.getD i 0 = 0) ∧
  (s.cpg.phase = .off ∧ s.cpg.spot = none ∧ s.cpg.g = 0 ∧ s.cpg.setpoint = 0 ∧ s.cpg.count = 0 ∧
    s.cpg.pulseIdx = 0 ∧ s.cpg.extUsed = false ∧ s.cpg.begun = false ∧ s.cpg.abort = none ∧ s.cpg.w = 0) ∧
  (s.wmn.iSum = 0 ∧ s.wmn.vSum = 0 ∧ s.wmn.judged = 0 ∧ s.wmn.blank = 0 ∧ s.wmn.pos = 0 ∧ s.wmn.noneBelow = 0 ∧
    s.wmn.lowBelow = 0 ∧ s.wmn.highAbove = 0 ∧ s.wmn.results = List.replicate 9 .noResult ∧ s.wmn.worst = .ok ∧
    s.wmn.lastMean = 0 ∧ s.wmn.lastRes = 0) ∧
  (s.sgl.link = .idle ∧ s.sgl.nextNum = 0 ∧ s.sgl.missing = 0 ∧ s.sgl.status = none ∧ s.sgl.answered = false) ∧
  (s.rlk.mailbox = none ∧ s.rlk.fifo = [] ∧ s.rlk.counter = 0 ∧ s.rlk.flags = 0 ∧ s.rlk.mask = 0 ∧
    s.rlk.cursorTable = .plt ∧ s.rlk.cursorIndex = 1 ∧ s.attention = false) ∧
  (s.settings.ownId = 0 ∧ s.settings.role = 0 ∧ s.settings.bitRate = none ∧ s.settings.feeder = 0 ∧
    s.settings.feederLimit = 0 ∧ s.settings.countLimit = 0 ∧ s.settings.claimLead = 0 ∧
    s.settings.claimWaitLimit = 0 ∧ s.settings.lateMargin = 0 ∧ s.settings.abortPath = .cut ∧ s.settings.avgN = 1) ∧
  s.iml.phase = .reading ∧ s.iml.blocks = 0

/-- The bounds of `State.Bounded` hold at reset. -/
def Obligations.ResetStateIsBounded : Prop := State.reset.Bounded

/-- R17, R23, R24, R50, R52, R62, R105, R121, R125, R143, R171, R177: no step leaves the bounds. -/
def Obligations.EveryStepKeepsTheBounds : Prop :=
  ∀ s t : State, s.Bounded → step s = .next t → t.Bounded

/-! ### The zone bus as bits -/

/-- R3 to R5, R190: what a sender puts on the line, a receiver reads back. -/
def Obligations.FrameReadsBackFromTheLine : Prop :=
  ∀ f : Frame, readFrame (lineBits f) = .good f

/-- R4: eight equal bits inside a frame are an insertion violation, whatever stands around them. -/
def Obligations.EightEqualBitsAreAViolation : Prop :=
  ∀ (before after : List Bool) (b : Bool),
    readFrame (before ++ List.replicate 8 b ++ after) = .violation

/-- R6: of two frames with different arbitration fields the one of lower precedence, or of equal precedence and lower
sender id, sends the first differing bit dominant: its sender goes on, the other has lost. -/
def Obligations.LowerArbitrationKeyWinsTheLine : Prop :=
  ∀ f g : Frame, arbKey f.arb < arbKey g.arb →
    ∃ n, (lineBits f).take n = (lineBits g).take n ∧ (lineBits f)[n]? = some false ∧ (lineBits g)[n]? = some true ∧
      keepsLine ((lineBits f).take (n + 1)) (wiredAnd ((lineBits f).take (n + 1)) ((lineBits g).take (n + 1))) = true ∧
      keepsLine ((lineBits g).take (n + 1)) (wiredAnd ((lineBits f).take (n + 1)) ((lineBits g).take (n + 1))) = false

/-! ### Reports, flags, mask, cursor and status -/

/-- R171, R173: raising a flag, other than REPORT_LOST, which makes no report, sets it and queues its EVENT; with a full
FIFO the report is dropped, its number spent and REPORT_LOST set. -/
def Obligations.RaisingSetsFlagAndQueuesEvent : Prop :=
  ∀ (f : Flag) (a0 a1 a2 a3 : Byte) (s : State), f ≠ .reportLost →
    (raise f a0 a1 a2 a3 s).flagSet f = true ∧
    raise f a0 a1 a2 a3 s =
      if s.rlk.fifo.length < 16 then
        { s with rlk := { s.rlk with flags := s.rlk.flags ||| flagMask f, counter := (s.rlk.counter + 1) % 256,
                                     fifo := s.rlk.fifo ++ [⟨s.rlk.counter, .event f a0 a1 a2 a3⟩] } }
      else
        { s with rlk := { s.rlk with flags := s.rlk.flags ||| flagMask f ||| flagMask .reportLost,
                                     counter := (s.rlk.counter + 1) % 256 } }

/-- R175: the attention line. -/
def Obligations.AttentionFollowsFifoAndMask : Prop :=
  ∀ s : State, s.attention = true ↔
    s.rlk.fifo ≠ [] ∨ ∃ f : Flag, s.flagSet f = true ∧ s.rlk.mask.getLsbD (flagBit f) = true

/-- R161, R172, R193: a complete READ-REPORT shifts out the record of the head report, or the empty marker, with a zero
for every byte clocked beyond its length, and takes it from the FIFO. The record, of 24 bytes, in the layout of each
report: kind, report number, content, and zeros beyond it. -/
def Obligations.ReadReportTakesTheHead : Prop :=
  recordCodes ∧ ∀ s : State, s.zbc.node ≠ .loading → ∃ record : List Byte,
    exec .readReport s = .next { s with rlk := { s.rlk with
      fifo := s.rlk.fifo.tail, out := s.portByte :: record ++ List.replicate s.clockedBeyond 0 } } ∧
    (s.rlk.fifo = [] → record = List.replicate 24 0) ∧
    ∀ n report rest, s.rlk.fifo = ⟨n, report⟩ :: rest →
      match report with
      | .programStart serial zoneSeq style program planCount firstSpot =>
        record = [1, byte n, byte (serial / 65536), byte (serial / 256), byte serial, byte zoneSeq, byte style,
          byte program, byte planCount, byte (firstSpot / 256), byte firstSpot] ++ List.replicate 13 0
      | .spotDone serial zoneSeq spotId pass outcome cause res early =>
        record = [2, byte n, byte (serial / 65536), byte (serial / 256), byte serial, byte zoneSeq,
          byte (spotId / 256), byte spotId, byte (passCode pass), byte (outcomeCode outcome), byte (causeCode cause),
          byte (worstCode res.worst), byte (res.mean / 256), byte res.mean, byte (res.res / 256), byte res.res,
          byte res.pulses, (if res.ext then 1 else 0) + (if early then 2 else 0)] ++ List.replicate 6 0
      | .revisitStart serial zoneSeq spots =>
        spots.length ≤ 8 → record = [3, byte n, byte (serial / 65536), byte (serial / 256), byte serial, byte zoneSeq,
          byte spots.length] ++ spots.flatMap (fun x => [byte (x / 256), byte x]) ++
          List.replicate (17 - 2 * spots.length) 0
      | .bodyDone serial zoneSeq style program nowork exited good suspect aborted missed e =>
        record = [4, byte n, byte (serial / 65536), byte (serial / 256), byte serial, byte zoneSeq, byte style,
          match program with
            | some p => byte p
            | none => 255,
          if nowork then 1 else 0, if exited then 5 else 0, byte good, byte suspect, byte aborted, byte missed,
          byte (e / 256), byte e] ++ List.replicate 8 0
      | .event flag a0 a1 a2 a3 =>
        record = [5, byte n, byte (flagBit flag), a0, a1, a2, a3] ++ List.replicate 17 0

/-- R161, R176, R193: READ-STATUS is answered in every state, changes nothing but what is shifted out, with a zero for
every byte clocked beyond its length, and shows the items of the status record at their places: reason and item of a
bad load, the pass while a body is active, and the kind of a held command among them. -/
def Obligations.ReadStatusShowsTheNode : Prop :=
  recordCodes ∧ ∀ s : State,
    exec .readStatus s = .next { s with rlk := { s.rlk with
      out := s.portByte :: s.statusRecord ++ List.replicate s.clockedBeyond 0 } } ∧
    s.statusRecord.length = 23 ∧ s.statusRecord[0]? = some (byte (nodeCode s.zbc.node)) ∧
    s.statusRecord[1]? = some (byte (loadPhaseCode s.iml.phase)) ∧ s.statusRecord[2]? = some (byte s.iml.blocks) ∧
    (s.iml.phase = .bad → s.statusRecord[3]? = some (byte (loadReasonCode s.iml.reason)) ∧
      s.statusRecord[4]? = some (byte s.iml.item)) ∧
    s.statusRecord[5]? = some (byte s.settings.ownId) ∧ s.statusRecord[6]? = some (byte s.settings.role) ∧
    s.statusRecord[7]? = some (byte (ssqCode s.ssq.state)) ∧
    (s.ssq.active.isSome → s.statusRecord[8]? = some (byte (passCode s.ssq.pass))) ∧
    (s.ssq.state = .idle → s.showsSpot 0) ∧
    (∀ e, s.ssq.state = .awaitGun → s.ssq.pass = .main → s.ssq.plan[s.ssq.cursor]? = some e → s.showsSpot e.spotId) ∧
    (∀ i rest e, s.ssq.state = .awaitGun → s.ssq.pass = .revisit → s.ssq.deferred = i :: rest →
      s.ssq.plan[i]? = some e → s.showsSpot e.spotId) ∧
    (∀ h e, s.ssq.state = .squeeze ∨ s.ssq.state = .firing ∨ s.ssq.state = .hold → s.ssq.inHand = some h →
      s.ssq.plan[h.planIdx]? = some e → s.showsSpot e.spotId) ∧
    s.statusRecord[11]? = some (byte (claimCode s.sru.claim)) ∧
    s.statusRecord[12]? = some (if s.bq.hold then 1 else 0) ∧
    s.statusRecord[13]? = some (byte s.bq.queue.length) ∧ s.statusRecord[14]? = some (byte s.rlk.fifo.length) ∧
    s.statusRecord[15]? = some (if s.rlk.mailbox.isSome then 1 else 0) ∧
    (s.rlk.mailbox = none → s.statusRecord[16]? = some 0) ∧
    (∀ serial style options zoneSeq, s.rlk.mailbox = some (.body serial style options zoneSeq) →
      s.statusRecord[16]? = some 1) ∧
    (∀ serial, s.rlk.mailbox = some (.exit serial) → s.statusRecord[16]? = some 2) ∧
    (∀ feeder percent, s.rlk.mailbox = some (.derate feeder percent) → s.statusRecord[16]? = some 3) ∧
    (∀ seconds, s.rlk.mailbox = some (.halt seconds) → s.statusRecord[16]? = some 4) ∧
    (s.rlk.mailbox = some .resume → s.statusRecord[16]? = some 5) ∧
    s.statusRecord[17]? = some (byte (s.rlk.flags.toNat / 256)) ∧
    s.statusRecord[18]? = some (byte s.rlk.flags.toNat) ∧
    s.statusRecord[19]? = some (byte (s.rlk.mask.toNat / 256)) ∧
    s.statusRecord[20]? = some (byte s.rlk.mask.toNat) ∧
    s.statusRecord[21]? = some (byte (s.cpg.w / 256)) ∧ s.statusRecord[22]? = some (byte s.cpg.w)

/-- R174, R175, R177: SET-MASK replaces the mask, CLEAR-FLAGS clears the named flags and no other, SET-CURSOR places
the cursor on a row of a table; nothing else changes. -/
def Obligations.MaskFlagsAndCursorAreWritten : Prop :=
  ∀ s : State, s.zbc.node ≠ .loading →
    (∀ mask, exec (.setMask mask) s =
      .next { s.afterDataIn 3 with rlk := { (s.afterDataIn 3).rlk with mask := mask } }) ∧
    (∀ set, ∃ flags, exec (.clearFlags set) s =
      .next { s.afterDataIn 3 with rlk := { (s.afterDataIn 3).rlk with flags := flags } } ∧
      ∀ k, flags.getLsbD k = (s.rlk.flags.getLsbD k && !set.getLsbD k)) ∧
    (∀ (table : Table) (index : BitVec 16), tableFirst table ≤ index.toNat → index.toNat < tableEnd table →
      exec (.setCursor (byte (tableCode table)) index) s =
        .next { s.afterDataIn 4 with rlk := { (s.afterDataIn 4).rlk with
          cursorTable := table, cursorIndex := index.toNat } }) ∧
    (∀ (code : Byte) (index : BitVec 16),
      (∀ table : Table, tableCode table = code.toNat →
        ¬(tableFirst table ≤ index.toNat ∧ index.toNat < tableEnd table)) →
      exec (.setCursor code index) s = .next (raise .commandRefused 0x40 0 0 0 (s.afterDataIn 4)))

/-- R36, R77, R82, R161, R178, R179, R193: READ-ROW shifts out the row at the cursor, or the end marker, with a zero for
every byte clocked beyond its length, and moves the cursor on, up to the end. The row, of 28 bytes: table code, index,
the content of the row in the layout of its table, and zeros beyond it. The D that a schedule of 0 pulses shows where
its sum is negative, which no rule states, is left open (log 7, DESIGN CHOICE). -/
def Obligations.ReadRowReturnsTheRowAndAdvances : Prop :=
  recordCodes ∧ ∀ s : State, s.zbc.node ≠ .loading → ∃ record : List Byte,
    exec .readRow s = .next { s with rlk := { s.rlk with
      out := s.portByte :: record ++ List.replicate s.clockedBeyond 0,
      cursorIndex := if s.rlk.cursorIndex < tableEnd s.rlk.cursorTable then s.rlk.cursorIndex + 1
                     else tableEnd s.rlk.cursorTable } } ∧
    (tableEnd s.rlk.cursorTable ≤ s.rlk.cursorIndex →
      record = [byte (tableCode s.rlk.cursorTable), 255, 255] ++ List.replicate 25 0) ∧
    (s.rlk.cursorIndex < tableEnd s.rlk.cursorTable →
      let i := s.rlk.cursorIndex
      let row (content : List Byte) : Prop := record =
        [byte (tableCode s.rlk.cursorTable), byte (i / 256), byte i] ++ content ++ List.replicate (25 - content.length) 0
      match s.rlk.cursorTable with
      | .plt =>
        (rowOf s.plt i = none → row []) ∧
        ∀ r, rowOf s.plt i = some r → row [1, byte r.feeder, byte r.load, byte ((r.lapse + 999) / 1000 / 256),
          byte ((r.lapse + 999) / 1000), byte r.zoneSeq, byte (r.spotId / 256), byte r.spotId, byte r.prec]
      | .bq =>
        (s.bq.queue.length ≤ i → row []) ∧
        ∀ r, s.bq.queue[i]? = some r → row [byte (r.serial / 65536), byte (r.serial / 256), byte r.serial,
          byte r.style, r.options, byte r.zoneSeq, byte (r.arrival / 256), byte r.arrival,
          if r.exitTaken then 1 else 0]
      | .plan =>
        (s.ssq.plan.length ≤ i → row []) ∧
        ∀ e, s.ssq.plan[i]? = some e → row [byte (e.recIdx / 256), byte e.recIdx, byte (e.spotId / 256),
          byte e.spotId, byte e.sched, byte (outcomeCode e.outcome), byte (causeCode e.cause)]
      | .deferred =>
        (s.ssq.deferred.length ≤ i → row []) ∧
        ∀ k e, s.ssq.deferred[i]? = some k → s.ssq.plan[k]? = some e →
          row [byte k, byte (e.spotId / 256), byte e.spotId]
      | .pitch => row [byte (s.bq.history.getD i 0 / 256), byte (s.bq.history.getD i 0)]
      | .learned => row [byte (s.ssq.learned.getD i 0 / 256), byte (s.ssq.learned.getD i 0)]
      | .schedule =>
        let c := scheduleOf s.pst i
        let x := min 65535 (if c.retry = 1 then c.cool + c.pulse else 0)
        ∃ d, row [byte (markCode c.mark), byte (c.level / 256), byte c.level, byte c.load, byte (c.squeeze / 256),
            byte c.squeeze, byte c.upslope, byte c.shape, byte c.pulses, byte (c.pulse / 256), byte c.pulse,
            byte c.cool, byte c.downslope, byte c.endPercent, byte (c.hold / 256), byte c.hold, byte c.windowLow,
            byte c.windowHigh, byte c.blank, byte c.action, byte c.retry, byte (d / 256), byte d,
            byte (x / 256), byte x] ∧
          ∀ sum : Nat, (sum : Int) = c.upslope + c.pulses * c.pulse + (c.pulses - 1) * c.cool + c.downslope →
            d = min 65535 sum)

/-- R161, R162: a cut-short or unknown transaction raises COMMAND_REFUSED with the kind byte received, 0 where none was
complete, and does nothing else; in LOADING it raises nothing. That a READ-STATUS cut short in LOADING raises nothing
either is the model's choice (log 40, DESIGN CHOICE). -/
def Obligations.CutShortTransactionIsRefused : Prop :=
  ∀ (bytes : List Byte) (s : State),
    (bytes = [] ∨ ∃ kind rest, bytes = kind :: rest ∧
      (kindLength kind = none ∨ ∃ n, kindLength kind = some n ∧ bytes.length < n)) →
    ∃ out : List Byte, out.length = bytes.length ∧
      exec (.cutShortTransaction bytes) s =
        .next (if s.zbc.node = .loading then { s with rlk := { s.rlk with out := out } }
               else raise .commandRefused (bytes.headD 0) 0 0 0 { s with rlk := { s.rlk with out := out } })

/-- R162: in LOADING a node takes no transaction but READ-STATUS: it shifts out the port byte, which shows it loading,
and zero bytes, and nothing else of it changes. -/
def Obligations.LoadingNodeTakesNoTransaction : Prop :=
  ∀ (s : State) (c : Instr), s.zbc.node = .loading →
    (c = .readReport ∨ c = .readRow ∨ c = .gunOpen ∨ c = .tipDressed ∨ c = .resumeZone ∨
      c = .abandonBody ∨ c = .rejoin ∨ c = .restart ∨ (∃ spot, c = .gunClosed spot) ∨
      (∃ m, c = .setMask m) ∨ (∃ m, c = .clearFlags m) ∨ (∃ x i, c = .setCursor x i) ∨
      (∃ k x, c = .motionKindRefused k x) ∨ (∃ k x, c = .commandKindRefused k x) ∨
      (∃ x y z w, c = .announceBody x y z w) ∨ (∃ x, c = .announceExit x) ∨
      (∃ x y, c = .announceDerate x y) ∨ ∃ x, c = .haltZone x) →
    ∃ n, s.clockedBeyond < n ∧
      exec c s = .next { s with rlk := { s.rlk with out := s.portByte :: List.replicate n 0 } } ∧
      s.portByte.getLsbD 7 = true

/-! ### Mailboxes -/

/-- R165, R166: a held command that passes the tests is held, and its frame, of the precedence of its kind, fills the
ANNOUNCE slot. -/
def Obligations.HeldCommandFillsTheAnnounceSlot : Prop :=
  ∀ s : State, s.linkTakes → s.rlk.mailbox = none →
    (∀ serial style options zoneSeq, s.settings.role = 1 ∨ s.settings.role = 3 → serial ≠ 0 →
      exec (.announceBody serial style options zoneSeq) s =
        .next ((s.afterDataIn 8).withHeld 1 (.body serial style options zoneSeq))) ∧
    (∀ serial, s.settings.role = 2 ∨ s.settings.role = 3 → serial ≠ 0 →
      exec (.announceExit serial) s = .next ((s.afterDataIn 8).withHeld 2 (.exit serial))) ∧
    (∀ feeder percent,
      exec (.announceDerate feeder percent) s = .next ((s.afterDataIn 8).withHeld 2 (.derate feeder percent))) ∧
    (∀ seconds, exec (.haltZone seconds) s = .next ((s.afterDataIn 8).withHeld 0 (.halt seconds))) ∧
    exec .resumeZone s = .next ((s.afterDataIn 8).withHeld 1 .resume)

/-- R163 to R165: unknown kinds, an INERT node, a busy mailbox, a missing role, a serial of 0 and an ABANDON-BODY or
REJOIN that fails its test are refused with one flag, and change nothing else. -/
def Obligations.RefusedCommandsRaiseOneFlag : Prop :=
  ∀ s : State, s.zbc.node ≠ .loading →
    (∀ kind spot, s.zbc.node = .inert ∨ (kind ≠ 1 ∧ kind ≠ 2 ∧ kind ≠ 3) →
      exec (.motionKindRefused kind spot) s = .next (raise .commandRefused 0x10 kind 0 0 (s.afterDataIn 4))) ∧
    (∀ kind fields, (s.zbc.node = .inert ∧ kind ≠ 8) ∨ kind = 0 ∨ 9 ≤ kind.toNat →
      exec (.commandKindRefused kind fields) s = .next (raise .commandRefused 0x11 kind 0 0 (s.afterDataIn 8))) ∧
    (∀ seconds, s.zbc.node ≠ .inert → s.rlk.mailbox.isSome →
      exec (.haltZone seconds) s = .next (raise .mailboxOverrun 4 0 0 0 (s.afterDataIn 8))) ∧
    (∀ serial, s.zbc.node ≠ .inert → s.rlk.mailbox = none → s.settings.role = 0 ∨ s.settings.role = 1 ∨ serial = 0 →
      exec (.announceExit serial) s = .next (raise .commandRefused 0x11 2 0 0 (s.afterDataIn 8))) ∧
    (s.zbc.node ≠ .inert → s.ssq.state = .idle →
      exec .abandonBody s = .next (raise .commandRefused 0x11 6 0 0 (s.afterDataIn 8))) ∧
    (s.zbc.node = .joining ∨ s.ownRow.isSome ∨ s.sru.claim = .offered →
      exec .rejoin s = .next (raise .commandRefused 0x11 7 0 0 (s.afterDataIn 8)))

/-- R45, R91, R100, R102, R109, R117, R118, R120, R136, R139, R156, R167: ABANDON-BODY ends the active body: at once in
AWAIT_GUN, with a BODY-DONE that counts every spot without a final outcome MISSED; in SQUEEZE and PRESTART with the spot
in hand MISSED EXITED and its claim withdrawn or released; in HOLD, and while an abort runs, it sets the ending mark and
lets both run, and in current it orders an abort EXITED, every PENDING or DEFERRED entry but the spot in hand MISSED
EXITED and off the deferred list.
That an order of the moment at which a pulse ends, taken before that update,
cuts the pulse too is the model's choice (log 39, DESIGN CHOICE), and so is that the pending claim record of a claim
that is RELEASING stands (log 38, DESIGN CHOICE). -/
def Obligations.AbandonEndsTheActiveBody : Prop :=
  ∀ s : State, s.linkTakes → s.ssq.ending = false →
    (∀ r b, s.ssq.state = .awaitGun → s.bq.queue = [r] → s.ssq.active = some b → s.ssq.inHand = none →
      ∃ ssq, s.ssq.idleAfter ssq ∧ exec .abandonBody s = .next { generate (s.exitedReport b) (s.afterDataIn 8) with
        bq := { s.bq with queue := [] }, ssq := ssq }) ∧
    (∀ r b h e, s.exitable r b h e →
      s.ssq.state = .squeeze ∨ (s.ssq.state = .firing ∧ s.cpg.phase = .prestart) →
      ∃ t, exec .abandonBody s = .next t ∧ (s.afterDataIn 8).bodyExitedIn t b h e) ∧
    (∀ h, s.ssq.inHand = some h →
      (s.ssq.state = .hold ∨ (s.ssq.state = .firing ∧ s.cpg.phase = .aborting) →
        exec .abandonBody s = .next { s.afterDataIn 8 with ssq := s.ssqExited h.planIdx }) ∧
      (s.ssq.state = .firing → s.inCurrent →
        exec .abandonBody s = .next { s.afterDataIn 8 with
          ssq := s.ssqExited h.planIdx, cpg := s.cpgAborting .exited s.settings.abortPath, wmn := s.wmnCut }))

/-- R20, R21, R168: an accepted REJOIN enters JOINING with every row cleared and the join timer at 520 ms, and keeps
everything else, of which the chosen slot, the pending claim record and the CLAIM slot are said where no CLAIM is
chosen. That a CLAIM chosen and not begun is void at the entry is the model's reading of R14 (log 21, DEDUCED). -/
def Obligations.RejoinEntersJoining : Prop :=
  ∀ s : State, s.zbc.node = .run ∨ s.zbc.node = .silent → s.ownRow = none →
    s.sru.claim ≠ .offered →
    (∃ t, exec .rejoin s = .next t ∧ t.zbc.node = .joining ∧ t.zbc.joinTimer = some 520000 ∧
      t.zbc.failures = 0 ∧
      (∀ id, rowOf t.plt id = none) ∧ t.plt.derate = s.plt.derate ∧ t.bq = s.bq ∧ t.ssq = s.ssq ∧ t.cpg = s.cpg ∧
      t.wmn = s.wmn ∧ t.sgl = s.sgl ∧ t.pst = s.pst ∧ t.settings = s.settings ∧ t.iml = s.iml ∧
      t.rlk = (s.afterDataIn 8).rlk ∧ t.sru.claim = s.sru.claim ∧ t.sru.request = s.sru.request ∧
      t.sru.waitTimer = s.sru.waitTimer ∧ t.zbc.announceSlot = s.zbc.announceSlot ∧
      t.zbc.releaseSlot = s.zbc.releaseSlot ∧ t.zbc.line = s.zbc.line ∧ t.zbc.wire = s.zbc.wire ∧
      t.zbc.chosen ≠ some .claim) ∧
    (s.zbc.chosen ≠ some .claim →
      exec .rejoin s = .next { s.afterDataIn 8 with
        plt := { s.plt with rows := List.replicate 31 none },
        zbc := { s.zbc with node := .joining, failures := 0, joinTimer := some 520000 } })

/-- R22, R169, R180: power-on, and RESTART in every state but LOADING, give every block its reset values. The commands
still waiting, the robot controller's clock and the model's counter of free choices (logs 6, 24, 36) are no part of the
node; what RESTART's own transaction shifted out stands. -/
def Obligations.PowerOnAndRestartReset : Prop :=
  ∀ s : State,
    exec .powerOn s = .next { State.reset with
      pending := s.pending, clockedBeyond := s.clockedBeyond, freeIndex := s.freeIndex } ∧
    (s.zbc.node ≠ .loading →
      exec .restart s = .next { State.reset with
        pending := s.pending, clockedBeyond := s.clockedBeyond, freeIndex := s.freeIndex,
        rlk := { Rlk.reset with out := (s.afterDataIn 8).rlk.out } })

/-- R104, R123: TIP-DRESSED sets W to 0 and changes nothing else; a waiting claim calls for an arbitration start where
W changes (R14). -/
def Obligations.TipDressedClearsTheWeldCount : Prop :=
  ∀ s : State, s.linkTakes →
    exec .tipDressed s =
      .next (if s.cpg.w ≠ 0 ∧ s.sru.claim = .waiting then
          callArbitration { s.afterDataIn 4 with cpg := { s.cpg with w := 0 } }
        else { s.afterDataIn 4 with cpg := { s.cpg with w := 0 } })

/-- R92 to R94, R107, R111: in AWAIT_GUN a GUN-CLOSED for the expected spot (the entry at the cursor in MAIN, the head
of the deferred list in REVISIT) starts its visit: SQUEEZE with the schedule's squeeze and the move closed; the
request waits for the claim lead. In MAIN the move's sample is learned. One for a PENDING entry beyond the cursor of
MAIN skips ahead: the entries between are MISSED SKIPPED, each with its SPOT-DONE, in plan order, and the named spot
is accepted without a sample, or, with an UNUSABLE schedule, is MISSED BAD_SCHEDULE and the next is awaited. One that
names no plan entry, an entry before the cursor or not PENDING in MAIN, or in REVISIT any but the head, or that finds
the sequencer elsewhere than in AWAIT_GUN, raises SPOT_MISMATCH with the spot id as written and changes nothing else.
-/
def Obligations.GunClosedStartsTheSqueezeOrMismatches : Prop :=
  ∀ (s : State) (spot : BitVec 16), s.linkTakes →
    let visit := { s.sru with
      visit := s.sru.visit + 1, waitTimer := none, expiryHeld := false, visitRequested := false }
    let taken (i : Nat) (e : PlanEntry) : SpotInHand :=
      { planIdx := i, squeezeLeft := (scheduleOf s.pst e.sched).squeeze * 1000, holdLeft := 0, earlyOpen := false,
        result := none }
    let mismatch := raise .spotMismatch (byte (spot.toNat / 256)) (byte spot.toNat) 0 0 (s.afterDataIn 4)
    (∀ i e, s.ssq.state = .awaitGun → s.ssq.plan[i]? = some e → e.spotId = spot.toNat →
      (s.ssq.plan.map PlanEntry.spotId).Nodup →
      (s.ssq.pass = .main → i = s.ssq.cursor → s.ssq.moveOpen = true →
        s.settings.claimLead < (scheduleOf s.pst e.sched).squeeze →
        ∃ learned, exec (.gunClosed spot) s = .next { s.afterDataIn 4 with
            ssq := { s.ssq with
              state := .squeeze, moveOpen := false, learned := learned, inHand := some (taken i e) },
            sru := visit } ∧
          learned.getD e.recIdx 0 =
            learnMove (s.ssq.learned.getD e.recIdx 0) (max 1 (min 65535 (s.ssq.moveTimer / 10000))) ∧
          ∀ k, k ≠ e.recIdx → learned.getD k 0 = s.ssq.learned.getD k 0) ∧
      (s.ssq.pass = .main → i = s.ssq.cursor → s.ssq.moveOpen = false →
        s.settings.claimLead < (scheduleOf s.pst e.sched).squeeze →
        exec (.gunClosed spot) s = .next { s.afterDataIn 4 with
          ssq := { s.ssq with state := .squeeze, inHand := some (taken i e) }, sru := visit }) ∧
      (∀ rest, s.ssq.pass = .revisit → s.ssq.deferred = i :: rest →
        s.settings.claimLead < (scheduleOf s.pst e.sched).squeeze →
        exec (.gunClosed spot) s = .next { s.afterDataIn 4 with
          ssq := { s.ssq with state := .squeeze, moveOpen := false, inHand := some (taken i e) }, sru := visit }) ∧
      (∀ b, s.ssq.pass = .main → s.ssq.cursor < i → e.outcome = .pending → s.ssq.active = some b →
        let skipped := s.ssq.plan.mapIdx fun k x =>
          if s.ssq.cursor ≤ k ∧ k < i then { x with outcome := .missed, cause := .skipped } else x
        let told := ((s.ssq.plan.drop s.ssq.cursor).take (i - s.ssq.cursor)).foldl
          (fun u x => generate (.spotDone b.serial b.zoneSeq x.spotId .main .missed .skipped withoutCurrent false) u)
          (s.afterDataIn 4)
        ((scheduleOf s.pst e.sched).mark = .usable → s.settings.claimLead < (scheduleOf s.pst e.sched).squeeze →
          exec (.gunClosed spot) s = .next { told with
            ssq := { s.ssq with
              state := .squeeze, cursor := i, plan := skipped, moveOpen := false, inHand := some (taken i e) },
            sru := visit }) ∧
        (∀ next, (scheduleOf s.pst e.sched).mark ≠ .usable → s.ssq.plan[i + 1]? = some next →
          (scheduleOf s.pst next.sched).mark = .usable →
          exec (.gunClosed spot) s = .next {
            generate (.spotDone b.serial b.zoneSeq e.spotId .main .missed .badSchedule withoutCurrent false) told with
            ssq := { s.ssq with
              cursor := i + 1, moveTimer := 0, moveOpen := true, late := false,
              plan := skipped.set i { e with outcome := .missed, cause := .badSchedule } } })) ∧
      (s.ssq.pass = .main → i < s.ssq.cursor ∨ (s.ssq.cursor < i ∧ e.outcome ≠ .pending) →
        exec (.gunClosed spot) s = .next mismatch) ∧
      (s.ssq.pass = .revisit → s.ssq.deferred.head? ≠ some i → exec (.gunClosed spot) s = .next mismatch)) ∧
    (s.ssq.state ≠ .awaitGun ∨ (∀ e ∈ s.ssq.plan, e.spotId ≠ spot.toNat) →
      exec (.gunClosed spot) s = .next mismatch)

/-- R44, R45, R91, R100 to R103, R128, R136, R139, R147, R148, R156: GUN-OPEN has no effect in IDLE and AWAIT_GUN. In
SQUEEZE it returns the spot, unresolved, to AWAIT_GUN and ends its visit: a WAITING claim goes to NONE, an OFFERED one
is withdrawn, a GRANTED one is released. In PRESTART the spot is MISSED GUN_OPENED, with the early-open mark, its claim
is released, and the next is awaited. In current it orders an abort GUN_OPENED with the early-open mark set, which cuts
a pulse short; an abort that runs goes on with its own cause, the mark set. In HOLD the mark is set and the hold ends at
once: all is as at the hold's end, which `HoldEndClosesTheSpot` tells; here it is said of a spot of MAIN that is
followed by another, its SPOT-DONE with the mark, the stage link out of FAULT.
That an order of the moment at which a pulse ends, taken before that update,
cuts the pulse too is the model's choice (log 39, DESIGN CHOICE), and so is that the pending claim record of a claim
that is RELEASING stands (log 38, DESIGN CHOICE). -/
def Obligations.GunOpenBeforeAndInCurrent : Prop :=
  ∀ s : State, s.linkTakes →
    (s.ssq.state = .idle ∨ s.ssq.state = .awaitGun → exec .gunOpen s = .next (s.afterDataIn 4)) ∧
    (s.ssq.state = .squeeze →
      ∃ t, exec .gunOpen s = .next t ∧ s.visitEndedIn t ∧
        t = { s.afterDataIn 4 with
          zbc := t.zbc, sru := t.sru, ssq := { s.ssq with state := .awaitGun, inHand := none } }) ∧
    (∀ h e next b, s.ssq.state = .firing → s.cpg.phase = .prestart → s.midPlan h e next b →
      ∃ t, exec .gunOpen s = .next t ∧ s.visitEndedIn t ∧ s.cpg.offAfter t.cpg ∧
        t = { s.afterDataIn 4 with
          zbc := t.zbc, sru := t.sru, ssq := s.ssqMissed .gunOpened, cpg := t.cpg,
          sgl := { s.sgl with link := .idle, updateIn := t.sgl.updateIn },
          rlk := (s.afterDataIn 4).rlkMissed b e .gunOpened true }) ∧
    (∀ h, s.ssq.inHand = some h →
      let marked := { s.afterDataIn 4 with ssq := { s.ssq with inHand := some { h with earlyOpen := true } } }
      (s.ssq.state = .firing → s.inCurrent →
        exec .gunOpen s = .next { marked with
          cpg := s.cpgAborting .gunOpened s.settings.abortPath, wmn := s.wmnCut }) ∧
      (s.ssq.state = .firing → s.cpg.phase = .aborting → exec .gunOpen s = .next marked) ∧
      (s.ssq.state = .hold → s.sgl.link ≠ .fault ∨ s.sgl.updateIn ≠ 0 →
        exec .gunOpen s = exec .holdEnd { marked with
          ssq := { s.ssq with inHand := some { h with earlyOpen := true, holdLeft := 0 } } } ∧
        ∀ e next b res, h.result = some res → s.ssq.plan[h.planIdx]? = some e → s.ssq.active = some b →
          s.ssq.pass = .main → s.ssq.ending = false → s.ssq.plan[s.ssq.cursor + 1]? = some next →
          (scheduleOf s.pst next.sched).mark = .usable →
          ∃ t, exec .gunOpen s = .next t ∧ s.visitEndedIn t ∧
            t = { generate (.spotDone b.serial b.zoneSeq e.spotId .main e.outcome e.cause res true) (s.afterDataIn 4) with
              zbc := t.zbc, sru := t.sru, sgl := t.sgl,
              ssq := { s.ssq with
                state := .awaitGun, inHand := none, cursor := s.ssq.cursor + 1, moveTimer := 0, moveOpen := true,
                late := false } } ∧
            (s.sgl.link ≠ .fault → t.sgl = s.sgl) ∧
            (s.sgl.link = .fault → t.sgl = { s.sgl with link := .idle, updateIn := t.sgl.updateIn })))

/-! ### Arbitration starts and offers -/

/-- R13, R14, R18: at an arbitration start the RELEASE is chosen before an ANNOUNCE of equal or higher precedence, and a
CLAIM only where neither waits; a CLAIM chosen before, its start bit not sent, gives way to them, its slot emptied. Off
the idle line, in LOADING, INERT and SILENT nothing is chosen. -/
def Obligations.ArbitrationChoosesTheLowestPrecedence : Prop :=
  ∀ s : State,
    (s.zbc.line = .busy ∨ s.zbc.node = .loading ∨ s.zbc.node = .inert ∨ s.zbc.node = .silent →
      callArbitration s = s) ∧
    (s.zbc.line = .idle → s.zbc.wire = none → s.zbc.node = .joining ∨ s.zbc.node = .run →
      (∀ r, s.zbc.releaseSlot = some r → s.zbc.announceSlot = none →
        (callArbitration s).zbc.chosen = some .release) ∧
      (∀ a, s.zbc.releaseSlot = none → s.zbc.announceSlot = some a →
        (callArbitration s).zbc.chosen = some .announce) ∧
      (∀ r a, s.zbc.releaseSlot = some r → s.zbc.announceSlot = some a →
        (callArbitration s).zbc.chosen = some (if a.arb.prec.toNat < r.arb.prec.toNat then .announce else .release)) ∧
      (s.zbc.chosen = some .claim → s.zbc.releaseSlot.isSome ∨ s.zbc.announceSlot.isSome →
        (callArbitration s).zbc.claimSlot = none ∧ (callArbitration s).sru = { s.sru with record := none }))

/-- R14, R30, R31, R34, R35, R37 to R39: an arbitration start, also one made while a choice stands whose start bit is
not sent, chooses a CLAIM only in RUN, with the claim WAITING, the zone not held, the own row empty and both other
slots empty, and only one computed at that moment that fits the feeder beside every recorded claim. With all of these
it does choose it: the CLAIM slot and the pending claim record are filled with the boosted load, lapse, precedence and
boost of that moment, its start bit to come within one bit time (R2). One that does not fit is declined. -/
def Obligations.ClaimIsChosenOnlyIfItFits : Prop :=
  (∀ s : State,
    s.zbc.chosen ≠ some .claim ∨
      (s.zbc.line = .idle ∧ s.zbc.wire = none ∧ (s.zbc.node = .joining ∨ s.zbc.node = .run)) →
    (callArbitration s).zbc.chosen = some .claim →
    s.zbc.node = .run ∧ s.sru.claim = .waiting ∧ s.bq.hold = false ∧ s.ownRow = none ∧ s.zbc.releaseSlot = none ∧
    s.zbc.announceSlot = none ∧
    ∃ q c, s.sru.request = some q ∧ (callArbitration s).sru.record = some c ∧ c.spotId = q.spotId ∧
      c.load = boostedLoad (scheduleOf s.pst q.sched).load (boostOf s.pst s.cpg.w) ∧
      s.feederLoad + c.load ≤ s.settings.feederLimit * s.plt.derate / 100 ∧
      s.feederClaims + 1 ≤ s.settings.countLimit ∧
      (callArbitration s).zbc.claimSlot = some {
        arb := { prec := BitVec.ofNat 4 c.prec, sender := BitVec.ofNat 5 s.settings.ownId },
        body := .claim (BitVec.ofNat 2 s.settings.feeder) (BitVec.ofNat 6 c.load) (BitVec.ofNat 8 c.lapse)
          (BitVec.ofNat 8 q.zoneSeq) (BitVec.ofNat 10 q.spotId) }) ∧
  ∀ (s : State) (q : Request), s.zbc.line = .idle → s.zbc.wire = none → s.zbc.node = .run → s.sru.claim = .waiting →
    s.bq.hold = false → s.ownRow = none → s.zbc.releaseSlot = none → s.zbc.announceSlot = none →
    s.sru.request = some q →
    let c := scheduleOf s.pst q.sched
    let boost := boostOf s.pst s.cpg.w
    let load := boostedLoad c.load boost
    let squeeze := max 1 (min ((s.squeezeLeft + 999) / 1000) s.settings.claimLead)
    let lapse := (squeeze + profileMs c + reserveMs c + 1) / 2 + 2
    let fit : Prop := s.feederLoad + load ≤ s.settings.feederLimit * s.plt.derate / 100 ∧
      s.feederClaims + 1 ≤ s.settings.countLimit
    (fit → ∃ n prec,
      callArbitration s = { s with
        zbc := { s.zbc with
          chosen := some .claim, startIn := n,
          claimSlot := some {
            arb := { prec := BitVec.ofNat 4 prec, sender := BitVec.ofNat 5 s.settings.ownId },
            body := .claim (BitVec.ofNat 2 s.settings.feeder) (BitVec.ofNat 6 load) (BitVec.ofNat 8 lapse)
              (BitVec.ofNat 8 q.zoneSeq) (BitVec.ofNat 10 q.spotId) } },
        sru := { s.sru with record := some {
          feeder := s.settings.feeder, load := load, lapse := lapse, zoneSeq := q.zoneSeq, spotId := q.spotId,
          prec := prec, boost := boost } } } ∧
      (∀ rate, s.zbc.chosen = none → s.settings.bitRate = some rate → n ≤ bitTimeUs (some rate)) ∧
      (q.pass = .revisit → prec = 3) ∧
      (q.pass = .main → 0 < s.bq.basePitch → s.ssq.plan ≠ [] →
        (prec : Int) = 14 - max 0 (min 11 (((12 * s.bodyE / s.bq.basePitch : Nat) : Int) -
          ((12 * resolvedCount s.ssq.plan / s.ssq.plan.length : Nat) : Int) + 4 +
          2 * ((s.bq.queue.length - 1 : Nat) : Int))))) ∧
    (¬fit →
      (s.zbc.chosen = none → callArbitration s = s) ∧
      (s.zbc.chosen = some .claim → callArbitration s = { s with
        zbc := { s.zbc with chosen := none, startIn := 0, claimSlot := none }, sru := { s.sru with record := none } }))

/-- R38, R39: every offer has a precedence of 3..14, 14 less the urgency, and REVISIT has 3. -/
def Obligations.ClaimPrecedenceLiesInThreeToFourteen : Prop :=
  ∀ (s : State) (q : Request) (c : PendingClaim), s.offerFor q = some c →
    3 ≤ c.prec ∧ c.prec ≤ 14 ∧ (q.pass = .revisit → c.prec = 3) ∧
    (q.pass = .main → 0 < s.bq.basePitch → s.ssq.plan ≠ [] →
      (c.prec : Int) = 14 - max 0 (min 11 (((12 * s.bodyE / s.bq.basePitch : Nat) : Int) -
        ((12 * resolvedCount s.ssq.plan / s.ssq.plan.length : Nat) : Int) + 4 + 2 * ((s.bq.queue.length - 1 : Nat) : Int))))

/-- R37, R78: the lapse of a claim on a USABLE schedule is at most 252 units, and covers what remains of the squeeze, up
to the claim lead, the profile, the extension and the 4 ms guard. -/
def Obligations.UsableScheduleLapseFitsTheFrame : Prop :=
  ∀ (s : State) (n presence : Nat), s.settings.claimLead ≤ 60 →
    scheduleMark presence (scheduleOf s.pst n) = .usable →
    s.lapseUnits n ≤ 252 ∧
    min s.squeezeLeft (s.settings.claimLead * 1000) +
      (profileMs (scheduleOf s.pst n) + reserveMs (scheduleOf s.pst n) + 4) * 1000 ≤ s.lapseUnits n * 2000

/-! ### Attempts of the node -/

/-- R2, R3, R14, R15, R35: ten recessive bits make the line idle, the frame before followed no more, and an arbitration
start; another node's start bit makes it busy and voids a choice not yet sent, with a CLAIM computed for it. That an
IDLE_POINT on a line already idle is such an arbitration start too is the model's choice (log 23, DESIGN CHOICE), and
that it ends the mark of an ID_CLASH raised for the frame before is its reading (log 41, DEDUCED). The own start bit:
while time passes up to its moment the chosen slot stands; at its moment the frame of the slot goes on the wire, its bits
sent from the start bit, the line is busy, nothing is driven, and a CLAIM makes the claim OFFERED. All else is as with
nothing chosen, which `ElapsedTimeRunsEveryTimer` tells. -/
def Obligations.IdlePointAndStartBit : Prop :=
  (∀ (s : State) (n : Nat) (slot : Slot) (f : Frame), 0 < n → s.zbc.chosen = some slot → slotFrame s.zbc slot = some f →
    let u := elapse n { s with zbc := { s.zbc with chosen := none } }
    (n < s.zbc.startIn → elapse n s = { u with zbc := { u.zbc with chosen := some slot } }) ∧
    (s.zbc.startIn ≤ n → elapse n s = { u with
      zbc := { u.zbc with
        wire := some slot, line := .busy, chosen := none, startIn := 0, drive := .recessive, txBits := lineBits f },
      sru := if slot = .claim then { u.sru with claim := .offered } else u.sru })) ∧
  ∀ s : State, s.zbc.node = .joining ∨ s.zbc.node = .run ∨ s.zbc.node = .silent →
    (s.zbc.wire = none →
      exec .idlePoint s = .next (callArbitration { s with zbc := { s.zbc with
        line := .idle, synced := true, clashTold := false } })) ∧
    (s.zbc.line = .idle →
      exec .startBit s = .next
        (match s.zbc.chosen with
        | none => { s with zbc := { s.zbc with line := .busy } }
        | some .claim => { s with
            zbc := { s.zbc with line := .busy, chosen := none, startIn := 0, claimSlot := none },
            sru := { s.sru with record := none } }
        | some .release => { s with zbc := { s.zbc with line := .busy, chosen := none, startIn := 0 } }
        | some .announce => { s with zbc := { s.zbc with line := .busy, chosen := none, startIn := 0 } }))

/-- R7, R8, R13, R17, R41: a rejected frame, or one with a bit error, counts as a failure. The ANNOUNCE slot keeps its
frame; a bit error drives the reject slot, and the own arbitration field heard after it raises ID_CLASH. An OFFERED
claim returns to WAITING with its slot and record emptied. -/
def Obligations.FailedAttemptIsCounted : Prop :=
  ∀ (s : State) (f : Frame), s.zbc.node = .joining ∨ s.zbc.node = .run → s.zbc.failures < 15 →
    (s.sending .announce f →
      exec .ownFrameRejected s =
        .next { s with zbc := { s.zbc with wire := none, line := .busy, failures := s.zbc.failures + 1 } } ∧
      ∀ heard, exec (.bitError heard) s = .next
        (let t := { s with zbc := { s.zbc with wire := none, line := .busy, failures := s.zbc.failures + 1,
                                               drive := .rejectSlot, clashTold := false } }
         if heard = some f.arb then raise .idClash 0 0 0 (byte (kindCode f.body)) t else t)) ∧
    (∀ v, s.sending .claim f → s.sru.claim = .offered → s.sru.expiryHeld = false → s.sru.withdrawn = false →
      s.sru.waitTimer = some v →
      exec .ownFrameRejected s = .next { s with
        zbc := { s.zbc with wire := none, line := .busy, claimSlot := none, failures := s.zbc.failures + 1 },
        sru := { s.sru with claim := .waiting, record := none } })

/-- R7, R11, R17, R18: the sixteenth failure in a row makes the node SILENT: CLAIM and RELEASE slots emptied, the join
timer discarded, BUS_SILENT raised with the kind of the frame; the ANNOUNCE slot keeps its frame. Where it is a bit
error, nothing is driven (log 19, DEDUCED), and the own arbitration field heard after it raises ID_CLASH: once, so that
the frame, if it completes, raises nothing more (R7; the mark that tells it is log 41, DEDUCED). -/
def Obligations.SixteenthFailureSilencesTheNode : Prop :=
  ∀ (s : State) (f : Frame), s.sending .announce f → s.zbc.node = .joining ∨ s.zbc.node = .run →
    s.zbc.failures = 15 →
    let told := raise .busSilent 0 0 0 (byte (kindCode f.body)) { s with
      zbc := { s.zbc with node := .silent, wire := none, line := .busy, failures := 16, claimSlot := none,
                          releaseSlot := none, releaseCancelled := false, joinTimer := none } }
    let undriven := { told with zbc := { told.zbc with drive := .recessive, clashTold := false } }
    let clashed := raise .idClash 0 0 0 (byte (kindCode f.body)) undriven
    exec .ownFrameRejected s = .next told ∧
    (∀ heard, exec (.bitError heard) s = .next
      (if heard = some f.arb then { clashed with zbc := { clashed.zbc with clashTold := true } } else undriven)) ∧
    ∀ g, s.zbc.synced = true → frameValid g = true → g.arb.sender.toNat = s.settings.ownId →
      exec (.ownIdFrame g) { clashed with zbc := { clashed.zbc with clashTold := true } } = .next clashed

/-- R8, R26, R42: the own CLAIM completes: the own row is occupied with its fields, without grace, the claim is GRANTED
with the claim-wait timer stopped where it stands, and ALONE is raised where no receiver answered. That the pending
claim record is kept after the grant is the model's choice (log 38, DESIGN CHOICE). -/
def Obligations.OwnClaimCompletionGrants : Prop :=
  ∀ (s : State) (f : Frame) (receipt : Bool) (feeder : BitVec 2) (load : BitVec 6) (lapse zoneSeq : BitVec 8)
    (spotId : BitVec 10), s.sending .claim f → f.body = .claim feeder load lapse zoneSeq spotId →
    frameValid f = true → f.arb.sender.toNat = s.settings.ownId → s.plt.rows.length = 31 → s.sru.claim = .offered →
    s.sru.withdrawn = false → s.ssq.state = .squeeze → s.bq.hold = false → 0 < s.squeezeLeft →
    ∃ t, exec (.ownFrameCompleted receipt) s = .next (if receipt then t else raise .alone 0 0 0 5 t) ∧
      t.ownRow = some { feeder := feeder.toNat, load := load.toNat, lapse := lapse.toNat * 2000,
                        zoneSeq := zoneSeq.toNat, spotId := spotId.toNat, prec := f.arb.prec.toNat } ∧
      (∀ id, id ≠ s.settings.ownId → rowOf t.plt id = rowOf s.plt id) ∧ t.plt.derate = s.plt.derate ∧
      t.sru = { s.sru with claim := .granted, expiryHeld := false } ∧
      t.zbc = { s.zbc with wire := none, line := .busy, claimSlot := none, failures := 0 } ∧ t.ssq = s.ssq ∧
      t.bq = s.bq ∧ t.cpg = s.cpg ∧ t.wmn = s.wmn ∧ t.sgl = s.sgl ∧ t.rlk = s.rlk ∧ t.iml = s.iml ∧ t.pst = s.pst ∧
      t.settings = s.settings

/-- R12, R13, R27, R45, R166: the own RELEASE completes: the own row clears and the claim goes to NONE; the own DERATE
completes: it is applied here and mailbox B is emptied. That the pending claim record is kept up to the completion of the
RELEASE and dropped there is the model's choice (log 38, DESIGN CHOICE). -/
def Obligations.OwnReleaseAndDerateCompletion : Prop :=
  ∀ (s : State) (f : Frame),
    (∀ r, s.sending .release f → f = {
          arb := { prec := 2, sender := BitVec.ofNat 5 s.settings.ownId },
          body := .release (BitVec.ofNat 2 s.settings.feeder) (BitVec.ofNat 10 r.spotId) } →
      1 ≤ s.settings.ownId → s.settings.ownId ≤ 31 → s.plt.rows.length = 31 → s.ownRow = some r →
      r.feeder = s.settings.feeder → s.settings.feeder < 4 → 1 ≤ r.spotId → r.spotId ≤ 999 →
      s.sru.claim = .releasing → s.sru.request = none →
      exec (.ownFrameCompleted true) s = .next { s with
        zbc := { s.zbc with wire := none, line := .busy, releaseSlot := none, releaseCancelled := false,
                            failures := 0 },
        plt := { s.plt with rows := s.plt.rows.set (s.settings.ownId - 1) none },
        sru := { s.sru with claim := .none, record := none } }) ∧
    (∀ feeder percent, s.sending .announce f → f.body = .derate feeder percent → f.arb.sender ≠ 0 →
      exec (.ownFrameCompleted true) s = .next { s with
        zbc := { s.zbc with wire := none, line := .busy, announceSlot := none, failures := 0 },
        plt := { s.plt with derate := if feeder.toNat = s.settings.feeder then clampNat 50 100 percent.toNat
                                      else s.plt.derate },
        rlk := { s.rlk with mailbox := none } })

/-- R6, R40: a peer's CLAIM heard while the node's own CLAIM is on the wire is applied, and then the loss is reported:
the claim returns to WAITING with nothing of its offer kept. That a frame heard to its end has won, whatever its
arbitration field, is the model's choice (log 18, DESIGN CHOICE); a lower field than the own is R6's case. -/
def Obligations.LostClaimReturnsToWaiting : Prop :=
  ∀ (s : State) (own : Frame) (arb : ArbField) (feeder : BitVec 2) (load : BitVec 6) (lapse zoneSeq : BitVec 8)
    (spotId : BitVec 10) (v : Nat), s.decodes = true → s.sending .claim own →
    own.arb.sender.toNat = s.settings.ownId → s.peerFrame { arb := arb, body := .claim feeder load lapse zoneSeq spotId } →
    s.sru.claim = .offered → s.sru.expiryHeld = false → s.sru.withdrawn = false → s.sru.waitTimer = some v →
    exec (.claimFrame arb feeder load lapse zoneSeq spotId) s = .next { s.afterHearing .receiptSlot with
      zbc := { (s.afterHearing .receiptSlot).zbc with wire := none, claimSlot := none },
      plt := { s.plt with
        rows := s.plt.rows.set (arb.sender.toNat - 1) (some {
          feeder := feeder.toNat, load := load.toNat, lapse := (lapse.toNat * 2 + 4) * 1000,
          zoneSeq := zoneSeq.toNat, spotId := spotId.toNat, prec := arb.prec.toNat }) },
      sru := { s.sru with claim := .waiting, record := none } }

/-! ### Frames of other nodes -/

/-- R1, R2, R4, R5, R18: a frame that does not complete has no effect but what the node drives for it; a node that
decodes nothing (LOADING, INERT, or not yet ten recessive bits on the line) is changed by no frame. -/
def Obligations.FramesNotDecodedHaveNoEffect : Prop :=
  ∀ s : State,
    (s.listening = true →
      exec .insertionViolation s = .next (s.afterHearing .disturbance) ∧
      exec (.frameDiscarded false) s = .next (s.afterHearing .rejectSlot) ∧
      exec (.frameDiscarded true) s = .next (s.afterHearing .receiptSlot)) ∧
    (s.decodes = false →
      (∀ f, exec (frameCommand s.settings.ownId f) s = .next s) ∧ exec .insertionViolation s = .next s ∧
      ∀ b, exec (.frameDiscarded b) s = .next s)

/-- R7, R10, R11: an invalid frame is receipted and has no effect; a valid frame under the own id is receipted, not
applied, and raises ID_CLASH with its kind, unless that has been raised for it
(R7; the mark that tells it is log 41, DEDUCED). That R10 comes before R11 for an invalid frame under the own id is the
model's reading (log 8, DEDUCED). -/
def Obligations.InvalidAndOwnIdFramesAreNotApplied : Prop :=
  ∀ (s : State) (f : Frame), s.listening = true →
    (frameValid f = false → exec (.invalidFrame f) s = .next (s.afterHearing .receiptSlot)) ∧
    (frameValid f = true → f.arb.sender.toNat = s.settings.ownId →
      exec (.ownIdFrame f) s = .next
        (if s.zbc.clashTold then s.afterHearing .receiptSlot
         else raise .idClash 0 0 0 (byte (kindCode f.body)) (s.afterHearing .receiptSlot)))

/-- R25, R27, R29: peers' CLAIM, RELEASE and DERATE frames act on the table alone: a CLAIM sets its sender's row with
4 ms of grace, a RELEASE clears the row it names, a DERATE of the own feeder sets the clamped percent. -/
def Obligations.PeerTableFollowsPeerFrames : Prop :=
  ∀ (s : State) (arb : ArbField), s.listening = true →
    (∀ feeder load lapse zoneSeq spotId, s.peerFrame { arb := arb, body := .claim feeder load lapse zoneSeq spotId } →
      exec (.claimFrame arb feeder load lapse zoneSeq spotId) s = .next { s.afterHearing .receiptSlot with
        plt := { s.plt with
          rows := s.plt.rows.set (arb.sender.toNat - 1) (some {
            feeder := feeder.toNat, load := load.toNat, lapse := (lapse.toNat * 2 + 4) * 1000,
            zoneSeq := zoneSeq.toNat, spotId := spotId.toNat, prec := arb.prec.toNat }) } }) ∧
    (∀ feeder spotId, s.peerFrame { arb := arb, body := .release feeder spotId } →
      exec (.releaseFrame arb feeder spotId) s = .next
        (if (rowOf s.plt arb.sender.toNat).any (fun r => r.feeder == feeder.toNat && r.spotId == spotId.toNat) then
          { s.afterHearing .receiptSlot with plt := { s.plt with rows := s.plt.rows.set (arb.sender.toNat - 1) none } }
        else s.afterHearing .receiptSlot)) ∧
    (∀ feeder percent, s.peerFrame { arb := arb, body := .derate feeder percent } →
      exec (.derateFrame arb feeder percent) s = .next
        (if feeder.toNat = s.settings.feeder then
          { s.afterHearing .receiptSlot with plt := { s.plt with derate := clampNat 50 100 percent.toNat } }
        else s.afterHearing .receiptSlot))

/-- R45, R65, R68, R96, R102, R114 to R116, R156: a HALT sets the flag and its timer, restarts the timer of a hold
that stands, and on a change raises ZONE_HOLD_CHANGE (HALT). A spot that waits for its grant keeps its request, a
current that runs is aborted HALTED, a pulse in progress cut short, and an abort that runs goes on with its own cause.
In JOINING and RUN a granted spot in SQUEEZE or PRESTART stays or comes back into SQUEEZE, with its claim released and
its request standing. In SILENT a spot of MAIN is MISSED HALTED, with its SPOT-DONE, and the next is awaited; that the
EVENT of ZONE_HOLD_CHANGE stands in the queue before the SPOT-DONE of the same event is no rule of the spec, but the
model's choice (log 9, DESIGN CHOICE).
That an order of the moment at which a pulse ends, taken before that update,
cuts the pulse too is the model's choice (log 39, DESIGN CHOICE), and so is that the pending claim record of a claim
that is RELEASING stands (log 38, DESIGN CHOICE). -/
def Obligations.HaltFrameHoldsTheZone : Prop :=
  ∀ (s : State) (arb : ArbField) (seconds : BitVec 8), s.listening = true →
    s.peerFrame { arb := arb, body := .halt seconds } →
    let bq := { s.bq with hold := true, holdTimer := if seconds = 0 then none else some (seconds.toNat * 1000000) }
    let held := { s.afterHearing .receiptSlot with bq := bq }
    let told := raise .zoneHoldChange 1 0 0 0 held
    (s.bq.hold = true → exec (.haltFrame arb seconds) s = .next held) ∧
    (s.bq.hold = false → s.ssq.state = .idle ∨ s.ssq.state = .awaitGun ∨ s.ssq.state = .hold ∨
        (s.ssq.state = .squeeze ∧ s.sru.claim ≠ .granted) ∨ (s.ssq.state = .firing ∧ s.cpg.phase = .aborting) →
      exec (.haltFrame arb seconds) s = .next told) ∧
    (s.bq.hold = false → s.ssq.state = .firing → s.inCurrent →
      exec (.haltFrame arb seconds) s =
        .next { told with cpg := s.cpgAborting .halted s.settings.abortPath, wmn := s.wmnCut }) ∧
    (∀ r, s.bq.hold = false → s.sru.claim = .granted → s.ownRow = some r →
      s.zbc.node = .joining ∨ s.zbc.node = .run →
      (s.ssq.state = .squeeze →
        ∃ t, exec (.haltFrame arb seconds) s = .next t ∧ s.releasedIn t r ∧
          t.sru = { s.sru with claim := .releasing } ∧ t.ssq = s.ssq ∧ t.bq = bq ∧ t.rlk = told.rlk ∧ t.cpg = s.cpg ∧
          t.plt = s.plt) ∧
      (s.ssq.state = .firing → s.cpg.phase = .prestart → s.sgl.link = .active →
        ∃ t, exec (.haltFrame arb seconds) s = .next t ∧ s.releasedIn t r ∧
          t.sru = { s.sru with claim := .releasing } ∧ t.ssq = { s.ssq with state := .squeeze } ∧ t.bq = bq ∧
          t.rlk = told.rlk ∧ t.cpg.phase = .off ∧ t.cpg.setpoint = 0 ∧ t.cpg.w = s.cpg.w ∧ t.sgl.link = .idle ∧
          t.plt = s.plt)) ∧
    (∀ h e next b, s.bq.hold = false → s.sru.claim = .granted → s.zbc.node = .silent → s.midPlan h e next b →
      s.ssq.state = .squeeze ∨ (s.ssq.state = .firing ∧ s.cpg.phase = .prestart) →
      ∃ t, exec (.haltFrame arb seconds) s = .next t ∧ t.sru = s.sru.visitOver .releasing ∧
        t.zbc.releaseSlot = s.zbc.releaseSlot ∧ t.ssq = s.ssqMissed .halted ∧ t.bq = bq ∧
        t.rlk = told.rlkMissed b e .halted h.earlyOpen ∧ t.plt = s.plt ∧
        (s.ssq.state = .squeeze → t.cpg = s.cpg) ∧
        (s.ssq.state = .firing →
          t.cpg.phase = .off ∧ t.cpg.setpoint = 0 ∧ t.cpg.w = s.cpg.w ∧ t.sgl.link = .idle))

/-- R66: a RESUME applied at this node, own or heard, clears a set flag, stops the hold timer and raises
ZONE_HOLD_CHANGE (RESUME); with the flag clear it leaves everything as it was and raises nothing. The last three clauses
say so of the commands by which a RESUME comes to be applied. Beside R66, `holdEndedIn` says what R33, R44 and R114 give
claim and sequencer when the flag clears. -/
def Obligations.ResumeFrameClearsTheHold : Prop :=
  ∀ (s : State) (arb : ArbField),
    (∀ own, s.bq.hold = false → applyFrame own ⟨arb, .resume⟩ s = s) ∧
    (∀ own, s.bq.hold = true →
      (applyFrame own ⟨arb, .resume⟩ s).bq = { s.bq with hold := false, holdTimer := none } ∧
      (applyFrame own ⟨arb, .resume⟩ s).rlk = (raise .zoneHoldChange 2 0 0 0 s).rlk ∧
      s.holdEndedIn (applyFrame own ⟨arb, .resume⟩ s)) ∧
    (s.listening = true → s.peerFrame ⟨arb, .resume⟩ → s.bq.hold = false →
      exec (.resumeFrame arb) s = .next (s.afterHearing .receiptSlot)) ∧
    (s.listening = true → s.peerFrame ⟨arb, .resume⟩ → s.bq.hold = true →
      ∃ t, exec (.resumeFrame arb) s = .next t ∧ t.bq = { s.bq with hold := false, holdTimer := none } ∧
        t.rlk = (raise .zoneHoldChange 2 0 0 0 s).rlk ∧ s.holdEndedIn t ∧ t.plt = s.plt ∧ t.cpg = s.cpg ∧
        t.wmn = s.wmn ∧ t.sgl = s.sgl ∧ t.pst = s.pst ∧ t.settings = s.settings ∧ t.iml = s.iml) ∧
    (s.sending .announce ⟨arb, .resume⟩ → arb.sender ≠ 0 → s.bq.hold = true →
      ∃ t, exec (.ownFrameCompleted true) s = .next t ∧ t.bq = { s.bq with hold := false, holdTimer := none } ∧
        t.rlk = { (raise .zoneHoldChange 2 0 0 0 s).rlk with mailbox := none } ∧ s.holdEndedIn t)

/-- R52 to R55, R60 to R63: a BODY frame. A duplicate raises BODY_DUPLICATE and changes nothing else; otherwise a
broken count raises BODY_GAP, the pitch timer gives its sample and starts again, and the body joins the tail, or is
dropped from a full queue with BODY_DROPPED. One that finds the queue empty is offered to the sequencer at once, which
`OfferedBodyIsActivated` tells. -/
def Obligations.BodyFrameJoinsTheQueue : Prop :=
  ∀ (s : State) (arb : ArbField) (serial : BitVec 24) (style : BitVec 4) (options zoneSeq : BitVec 8),
    s.listening = true → s.peerFrame { arb := arb, body := .body serial style options zoneSeq } →
    let u := s.afterHearing .receiptSlot
    let v := match s.bq.lastSeq with
      | none => u
      | some l => if zoneSeq.toNat = (l + 1) % 256 then u
          else raise .bodyGap (byte ((l + 1) % 256)) (byte zoneSeq.toNat) 0 0 u
    let w := match s.bq.pitchTimer with
      | none => { s.bq with lastSeq := some zoneSeq.toNat, pitchTimer := some 0 }
      | some us => if 65535 < us / 10000 then { s.bq with lastSeq := some zoneSeq.toNat, pitchTimer := some 0 }
          else { s.bq with
            lastSeq := some zoneSeq.toNat, pitchTimer := some 0,
            history := max 1 (us / 10000) :: s.bq.history.dropLast,
            basePitch := ((max 1 (us / 10000) :: s.bq.history.dropLast).take s.settings.avgN).sum / s.settings.avgN }
    let joined := { v with
      bq := { w with queue := s.bq.queue ++ [{ serial := serial.toNat, style := style.toNat, options := options,
                                               zoneSeq := zoneSeq.toNat, arrival := s.bq.arrivalNext,
                                               exitTaken := false }],
                     arrivalNext := (s.bq.arrivalNext + 1) % 65536 } }
    ((∃ r ∈ s.bq.queue, r.serial = serial.toNat) →
      exec (.bodyFrame arb serial style options zoneSeq) s = .next (raise .bodyDuplicate 0 (byte (serial.toNat / 65536))
        (byte (serial.toNat / 256)) (byte serial.toNat) u)) ∧
    ((∀ r ∈ s.bq.queue, r.serial ≠ serial.toNat) → s.bq.queue ≠ [] → s.bq.queue.length < 8 →
      exec (.bodyFrame arb serial style options zoneSeq) s = .next joined) ∧
    (s.bq.queue = [] → exec (.bodyFrame arb serial style options zoneSeq) s = .next (offerQueue joined)) ∧
    ((∀ r ∈ s.bq.queue, r.serial ≠ serial.toNat) → 8 ≤ s.bq.queue.length →
      exec (.bodyFrame arb serial style options zoneSeq) s = .next (raise .bodyDropped 0 (byte (serial.toNat / 65536))
        (byte (serial.toNat / 256)) (byte serial.toNat) { v with bq := w }))

/-- R58, R86 to R90: the only body of the queue, offered to the sequencer. Without a program it is done at once,
NOWORK, and leaves; with a first spot of a USABLE schedule it becomes the active body, its PROGRAM-START is queued and
its plan is awaited, every entry PENDING, in program order. -/
def Obligations.OfferedBodyIsActivated : Prop :=
  ∀ (s : State) (r : BodyRecord), s.bq.queue = [r] →
    (styleProgram s.pst r.style = none →
      ∃ ssq, offerQueue s = { generate (.bodyDone r.serial r.zoneSeq r.style none true false 0 0 0 0 0) s with
        bq := { s.bq with queue := [] }, ssq := ssq } ∧ ssq.state = .idle ∧ ssq.active = none ∧ ssq.plan = [] ∧
        ssq.learned = s.ssq.learned) ∧
    (∀ n i rest, styleProgram s.pst r.style = some n → spotList s.pst n r.options = i :: rest →
      (scheduleOf s.pst (recordOf s.pst i).sched).mark = .usable →
      ∃ ssq, offerQueue s = { generate (.programStart r.serial r.zoneSeq r.style n (rest.length + 1)
          (recordOf s.pst i).spotId) s with ssq := ssq } ∧ ssq.state = .awaitGun ∧ ssq.pass = .main ∧
        ssq.active = some { serial := r.serial, zoneSeq := r.zoneSeq, style := r.style, options := r.options,
                            program := some n } ∧
        ssq.cursor = 0 ∧ ssq.deferred = [] ∧ ssq.ending = false ∧ ssq.inHand = none ∧ ssq.moveOpen = true ∧
        ssq.moveTimer = 0 ∧ ssq.late = false ∧ ssq.bodyTime = 0 ∧ ssq.learned = s.ssq.learned ∧
        ssq.plan = (i :: rest).map fun k => { recIdx := k, spotId := (recordOf s.pst k).spotId,
                                              sched := (recordOf s.pst k).sched, outcome := .pending, cause := .none })

/-- R45, R56, R57, R91, R100, R102, R109, R117, R118, R120, R136, R139, R156: an EXIT of an unknown body, or of a head
whose exit is taken, is ignored; a body behind the head leaves the queue with its BODY-DONE; the head's exit is taken
and passed to the sequencer, which ends the active body: at once in AWAIT_GUN, and in SQUEEZE and PRESTART with the spot
in hand MISSED EXITED and its claim withdrawn or released; in HOLD, while an abort runs, and in current the body is
ending, every other PENDING or DEFERRED entry MISSED EXITED and off the deferred list, and in current an abort EXITED
is ordered. With the ending mark set it has no further effect.
That an order of the moment at which a pulse ends, taken before that update,
cuts the pulse too is the model's choice (log 39, DESIGN CHOICE), and so is that the pending claim record of a claim
that is RELEASING stands (log 38, DESIGN CHOICE). -/
def Obligations.ExitFrameTakesABodyOut : Prop :=
  ∀ (s : State) (arb : ArbField) (serial : BitVec 24), s.listening = true →
    s.peerFrame { arb := arb, body := .exit serial } →
    let u := s.afterHearing .receiptSlot
    ((∀ r ∈ s.bq.queue, r.serial ≠ serial.toNat) → exec (.exitFrame arb serial) s = .next u) ∧
    (∀ r rest, s.bq.queue = r :: rest → r.serial = serial.toNat → r.exitTaken = true →
      exec (.exitFrame arb serial) s = .next u) ∧
    (∀ a x b, a ≠ [] → s.bq.queue = a ++ x :: b → x.serial = serial.toNat → (∀ r ∈ a, r.serial ≠ serial.toNat) →
      exec (.exitFrame arb serial) s = .next (generate (.bodyDone x.serial x.zoneSeq x.style none true true 0 0 0 0 0)
        { u with bq := { s.bq with queue := a ++ b } })) ∧
    (∀ r rest, s.bq.queue = r :: rest → r.serial = serial.toNat → r.exitTaken = false →
      let taken := { u with bq := { s.bq with queue := { r with exitTaken := true } :: rest } }
      (s.ssq.ending = true → exec (.exitFrame arb serial) s = .next taken) ∧
      (s.ssq.ending = false →
        (∀ b, s.ssq.state = .awaitGun → rest = [] → s.ssq.active = some b → s.ssq.inHand = none →
          ∃ ssq, s.ssq.idleAfter ssq ∧ exec (.exitFrame arb serial) s = .next { generate (s.exitedReport b) u with
            bq := { s.bq with queue := [] }, ssq := ssq }) ∧
        (∀ b h e, s.exitable r b h e →
          s.ssq.state = .squeeze ∨ (s.ssq.state = .firing ∧ s.cpg.phase = .prestart) →
          ∃ t, exec (.exitFrame arb serial) s = .next t ∧ u.bodyExitedIn t b h e) ∧
        ∀ h, s.ssq.inHand = some h →
          (s.ssq.state = .hold ∨ (s.ssq.state = .firing ∧ s.cpg.phase = .aborting) →
            exec (.exitFrame arb serial) s = .next { taken with ssq := s.ssqExited h.planIdx }) ∧
          (s.ssq.state = .firing → s.inCurrent → exec (.exitFrame arb serial) s = .next { taken with
            ssq := s.ssqExited h.planIdx, cpg := s.cpgAborting .exited s.settings.abortPath, wmn := s.wmnCut })))

/-! ### Timers that run out -/

/-- R20: the join timer at 0 in JOINING: RUN, JOIN_DONE with the number of occupied rows, and an arbitration start. -/
def Obligations.JoinTimerLeadsToRun : Prop :=
  ∀ s : State, s.zbc.node = .joining → s.zbc.joinTimer = some 0 →
    exec .joinTimerExpiry s = .next (callArbitration (raise .joinDone 0 0 0 (byte (occupiedRows s.plt))
      { s with zbc := { s.zbc with node := .run, joinTimer := none } }))

/-- R28, R46, R97, R100, R102, R142: a row whose lapse has run out is cleared, and no other. The own row of a
RELEASING claim takes the claim to NONE with its RELEASE cancelled. The own row of a GRANTED claim takes it to WAITING
where its request stands, and else to NONE: a spot in SQUEEZE stays there; in PRESTART it is MISSED STAGE, with its
SPOT-DONE, no RELEASE is queued and the next is awaited; in current an abort STAGE is taken and the next update is its
end; an abort that runs keeps its cause and ends at the next update. That the abort has the path CUT is the model's
reading (log 26, DEDUCED). That the pending claim record is dropped with the row, and that a lapse of the moment at
which a pulse ends, taken before that update, cuts the pulse, are its choices (logs 38 and 39, DESIGN CHOICE). -/
def Obligations.LapsedRowIsCleared : Prop :=
  ∀ (s : State) (id : BitVec 5) (r : Row), rowOf s.plt id.toNat = some r → r.lapse = 0 →
    let cleared := { s with plt := { s.plt with rows := s.plt.rows.set (id.toNat - 1) none } }
    (∃ t, exec (.rowLapse id) s = .next t ∧ t.plt = cleared.plt) ∧
    (id.toNat ≠ s.settings.ownId → exec (.rowLapse id) s = .next (callArbitration cleared)) ∧
    (id.toNat = s.settings.ownId → s.sru.claim = .releasing → s.sru.request = none → s.zbc.wire = none →
      s.zbc.chosen = none →
      exec (.rowLapse id) s = .next (callArbitration
        { cleared with zbc := { s.zbc with releaseSlot := none, releaseCancelled := false },
                       sru := { s.sru with claim := .none, record := none } })) ∧
    (id.toNat = s.settings.ownId → s.sru.claim = .granted → s.sru.request = none → s.ssq.state ≠ .firing →
      exec (.rowLapse id) s =
        .next (callArbitration { cleared with sru := { s.sru with claim := .none, record := none } })) ∧
    (∀ v, id.toNat = s.settings.ownId → s.sru.claim = .granted → s.sru.request.isSome → s.sru.waitTimer = some v →
      let waits := { cleared with sru := { s.sru with claim := .waiting, record := none } }
      (s.ssq.state = .squeeze → exec (.rowLapse id) s = .next (callArbitration waits)) ∧
      (s.ssq.state = .firing → s.inCurrent → exec (.rowLapse id) s = .next (callArbitration { waits with
        cpg := { s.cpgAborting .stage .cut with slotLost := true }, wmn := s.wmnCut })) ∧
      (s.ssq.state = .firing → s.cpg.phase = .aborting → exec (.rowLapse id) s =
        .next (callArbitration { waits with cpg := { s.cpg with slotLost := true } })) ∧
      (∀ h e next b, s.ssq.state = .firing → s.cpg.phase = .prestart → s.zbc.chosen ≠ some .claim →
        s.midPlan h e next b →
        ∃ t, exec (.rowLapse id) s = .next t ∧ t.sru = { s.sru.visitOver .none with record := none } ∧
          t.zbc.releaseSlot = s.zbc.releaseSlot ∧ t.ssq = s.ssqMissed .stage ∧
          t.rlk = s.rlkMissed b e .stage h.earlyOpen ∧ t.cpg.phase = .off ∧ t.cpg.setpoint = 0 ∧
          t.cpg.w = s.cpg.w ∧ t.sgl.link = .idle))

/-- R43, R97, R102, R105, R107: the claim-wait timer at its limit: in OFFERED the expiry is held; in WAITING the claim
goes to NONE. In MAIN the spot in hand is deferred CLAIM_TIMEOUT, or, with 8 deferred spots, MISSED DEFER_FULL, with
its SPOT-DONE, and the next is awaited. In REVISIT it is MISSED CLAIM_TIMEOUT, leaves the deferred list, and the next
head is awaited. -/
def Obligations.ClaimWaitExpiryDefersTheSpot : Prop :=
  ∀ s : State, s.bq.hold = false → s.sru.expiryHeld = false →
    s.sru.waitTimer = some (s.settings.claimWaitLimit * 1000) →
    (s.sru.claim = .offered →
      exec .claimWaitExpiry s = .next { s with sru := { s.sru with expiryHeld := true } }) ∧
    (∀ h e b, s.sru.claim = .waiting → s.zbc.chosen = none → s.ssq.state = .squeeze → s.ssq.pass = .main →
      s.ssq.inHand = some h → h.planIdx = s.ssq.cursor → s.ssq.plan[s.ssq.cursor]? = some e → s.ssq.active = some b →
      s.ssq.deferred.length < 8 → s.ssq.ending = false →
      ∃ t, exec .claimWaitExpiry s = .next t ∧ t.sru.claim = .none ∧ t.sru.request = none ∧ t.sru.waitTimer = none ∧
        t.ssq.state = .awaitGun ∧ t.ssq.inHand = none ∧ t.ssq.deferred = s.ssq.deferred ++ [s.ssq.cursor] ∧
        t.ssq.plan[s.ssq.cursor]? = some { e with outcome := .deferred, cause := .claimTimeout } ∧
        t.bq = s.bq ∧ t.plt = s.plt ∧ t.cpg = s.cpg ∧ t.zbc = s.zbc ∧ t.ssq.active = some b ∧
        ∀ next, s.midPlan h e next b → t.ssq.cursor = s.ssq.cursor + 1 ∧ t.ssq.moveTimer = 0 ∧
          t.ssq.moveOpen = true ∧
          t.rlk = (generate (.spotDone b.serial b.zoneSeq e.spotId .main .deferred .claimTimeout withoutCurrent
            h.earlyOpen) s).rlk) ∧
    (∀ h e next b, s.sru.claim = .waiting → s.zbc.chosen = none → s.ssq.state = .squeeze → s.midPlan h e next b →
      8 ≤ s.ssq.deferred.length →
      exec .claimWaitExpiry s = .next { s with
        rlk := s.rlkMissed b e .deferFull h.earlyOpen, sru := { s.sru.visitOver .none with record := none },
        ssq := s.ssqMissed .deferFull }) ∧
    (∀ h e b i rest, s.sru.claim = .waiting → s.zbc.chosen = none → s.ssq.state = .squeeze → s.ssq.pass = .revisit →
      s.ssq.inHand = some h → h.result = none → s.ssq.plan[h.planIdx]? = some e → s.ssq.active = some b →
      s.ssq.ending = false → s.sgl.link ≠ .fault → s.ssq.plan.length ≤ s.ssq.cursor →
      s.ssq.deferred = h.planIdx :: i :: rest → s.ssq.deferred.Nodup →
      exec .claimWaitExpiry s = .next {
        generate (.spotDone b.serial b.zoneSeq e.spotId .revisit .missed .claimTimeout withoutCurrent h.earlyOpen) s with
        sru := { s.sru.visitOver .none with record := none },
        ssq := { s.ssq with
          state := .awaitGun, inHand := none, deferred := i :: rest,
          plan := s.ssq.plan.set h.planIdx { e with outcome := .missed, cause := .claimTimeout } } })

/-- R32, R33, R95, R97, R102, R114: the squeeze at the claim lead raises the request of the visit: at the first request
an oversize spot's claim stays NONE and the spot is MISSED OVERSIZE, with its SPOT-DONE, and the next is awaited; any
other claim enters WAITING with its timer at 0, and the SRU calls for an arbitration start. A later request of the visit
is made without that test, on the timer as it stands. Beside a RELEASING or a withdrawn OFFERED claim the request stands
and waits. -/
def Obligations.ClaimLeadRaisesTheRequest : Prop :=
  ∀ (s : State) (h : SpotInHand) (e : PlanEntry) (b : ActiveBody), s.ssq.state = .squeeze → s.ssq.inHand = some h →
    s.ssq.active = some b → s.ssq.plan[h.planIdx]? = some e → s.bq.hold = false → s.sru.request = none →
    h.squeezeLeft ≤ s.settings.claimLead * 1000 →
    (s.sru.visitRequested = true ∨ boostedLoad (scheduleOf s.pst e.sched).load (boostOf s.pst s.cpg.w) ≤
        s.settings.feederLimit * s.plt.derate / 100 →
      let q : Request := { planIdx := h.planIdx, spotId := e.spotId, sched := e.sched, pass := s.ssq.pass,
                           zoneSeq := b.zoneSeq, visit := s.sru.visit }
      (s.sru.claim = .none → exec .claimLeadReached s = .next (callArbitration { s with
        sru := { s.sru with claim := .waiting, record := none, waitTimer := some (s.sru.waitTimer.getD 0),
                            visitRequested := true, request := some q } })) ∧
      (s.sru.claim = .releasing ∨ (s.sru.claim = .offered ∧ s.sru.withdrawn = true) →
        exec .claimLeadReached s = .next (callArbitration { s with
          sru := { s.sru with visitRequested := true, request := some q } }))) ∧
    (s.sru.claim = .none → s.sru.visitRequested = false → s.sru.waitTimer = none →
      s.settings.feederLimit * s.plt.derate / 100 <
        boostedLoad (scheduleOf s.pst e.sched).load (boostOf s.pst s.cpg.w) →
      (∃ t, exec .claimLeadReached s = .next t ∧ t.sru.claim = .none ∧ t.sru.waitTimer = none ∧ t.plt = s.plt ∧
        t.zbc = s.zbc ∧ t.cpg = s.cpg) ∧
      (∀ next, s.midPlan h e next b →
        exec .claimLeadReached s = .next { s with
          rlk := s.rlkMissed b e .oversize h.earlyOpen, sru := s.sru.visitOver .none,
          ssq := s.ssqMissed .oversize }) ∧
      (∀ i rest, s.ssq.pass = .revisit → h.result = none → s.ssq.ending = false → s.sgl.link ≠ .fault →
        s.ssq.plan.length ≤ s.ssq.cursor → s.ssq.deferred = h.planIdx :: i :: rest → s.ssq.deferred.Nodup →
        exec .claimLeadReached s = .next {
          generate (.spotDone b.serial b.zoneSeq e.spotId .revisit .missed .oversize withoutCurrent h.earlyOpen) s with
          sru := s.sru.visitOver .none,
          ssq := { s.ssq with
            state := .awaitGun, inHand := none, deferred := i :: rest,
            plan := s.ssq.plan.set h.planIdx { e with outcome := .missed, cause := .oversize } } }))

/-- R33, R44, R67, R68, R112, R114: the hold timer at 0 clears the hold and raises ZONE_HOLD_CHANGE (EXPIRY); a spot in
SQUEEZE squeezes again in full, its request cancelled where that is longer than the claim lead, and an arbitration start
is made (R49). The move timer at the late threshold raises ROBOT_LATE with the expected spot, once. -/
def Obligations.HoldExpiryAndRobotLate : Prop :=
  ∀ s : State,
    (s.bq.hold = true → s.bq.holdTimer = some 0 →
      let told := raise .zoneHoldChange 3 0 0 0 { s with bq := { s.bq with hold := false, holdTimer := none } }
      (s.ssq.state ≠ .squeeze → exec .holdTimerExpiry s = .next (callArbitration told)) ∧
      ∃ t, exec .holdTimerExpiry s = .next t ∧ s.holdEndedIn t ∧
        t = { told with zbc := t.zbc, sru := t.sru, ssq := t.ssq } ∧
        (s.sru.claim ≠ .granted → t.zbc = { s.zbc with
          chosen := t.zbc.chosen, startIn := t.zbc.startIn, claimSlot := t.zbc.claimSlot })) ∧
    (∀ e, s.bq.hold = false → s.ssq.state = .awaitGun → s.ssq.pass = .main → s.ssq.moveOpen = true →
      s.ssq.late = false → s.ssq.plan[s.ssq.cursor]? = some e → s.ssq.learned.getD e.recIdx 0 ≠ 0 →
      s.ssq.learned.getD e.recIdx 0 * (128 + s.settings.lateMargin) / 128 * 10000 ≤ s.ssq.moveTimer →
      exec .robotLate s = .next { raise .robotLate (byte (e.spotId / 256)) (byte e.spotId) 0 0 s with
        ssq := { s.ssq with late := true } } ∧
      exec .robotLate { s with ssq := { s.ssq with late := true } } =
        .next { s with ssq := { s.ssq with late := true } })

/-- R95, R96, R122, R126, R144: squeeze end without a grant waits; with it the spot goes to FIRING: G is computed from
the boost of the grant, PRESTART begins with its first update, of setpoint 0, and the stage link is ACTIVE. That the
boost of the grant is found in a pending claim record kept since the grant is the model's choice (log 38, DESIGN
CHOICE). -/
def Obligations.SqueezeEndFiresAGrantedSpot : Prop :=
  ∀ (s : State) (h : SpotInHand) (e : PlanEntry), s.ssq.state = .squeeze → s.ssq.inHand = some h →
    s.ssq.plan[h.planIdx]? = some e → s.bq.hold = false → h.squeezeLeft = 0 →
    (s.sru.claim ≠ .granted → exec .squeezeEnd s = .next s) ∧
    (∀ c, s.sru.claim = .granted → s.sru.record = some c →
      exec .squeezeEnd s = .next { s with
        ssq := { s.ssq with state := .firing },
        cpg := { s.cpg with phase := .prestart, spot := some { sched := e.sched, boost := c.boost },
                            g := min 4095 ((scheduleOf s.pst e.sched).level * (100 + c.boost) / 100), setpoint := 0,
                            count := 1, pulseIdx := 0, extUsed := false, begun := false, abort := none,
                            slotLost := false },
        wmn := { s.wmn with results := List.replicate 9 .noResult, worst := .ok, lastMean := 0, lastRes := 0 },
        sgl := { s.sgl with link := .active, missing := 0, status := none, answered := false, updateIn := 500,
                            lastFrame := setpointFrame s.sgl.nextNum 0, nextNum := (s.sgl.nextNum + 1) % 256 } })

/-- R91, R101, R102, R106 to R109, R120: hold end closes the spot: its SPOT-DONE is queued. In MAIN the cursor moves
to the next spot of a USABLE schedule with the move timer opened at 0; after the last spot of MAIN with deferred spots
REVISIT begins, its REVISIT-START queued, and the oldest is awaited; in REVISIT the next head is. After the last spot
of all, or with the ending mark set, the body is done, with the counts of its plan, leaves the queue, and the
sequencer is IDLE. R147: where the stage link is in FAULT, hold end leaves it in IDLE, after the zero frame that is
due. That a frame whose moment commands have passed over counts as due is the model's choice (log 28, DESIGN CHOICE). -/
def Obligations.HoldEndClosesTheSpot : Prop :=
  (∀ (s : State) (h : SpotInHand), s.ssq.state = .hold → s.ssq.inHand = some h → h.holdLeft = 0 →
    s.sgl.link = .fault →
    ∃ t, exec .holdEnd s = .next t ∧
      (s.sgl.updateIn = 0 → t.sgl = { s.sgl with
        link := .idle, lastFrame := setpointFrame s.sgl.nextNum 0, nextNum := (s.sgl.nextNum + 1) % 256,
        answered := false, updateIn := 0 }) ∧
      (s.sgl.updateIn ≠ 0 → t.sgl = { s.sgl with link := .idle, updateIn := 0 })) ∧
  ∀ (s : State) (h : SpotInHand) (e : PlanEntry) (b : ActiveBody) (res : SpotResult), s.ssq.state = .hold →
    s.ssq.inHand = some h → h.holdLeft = 0 → h.result = some res → s.ssq.active = some b →
    s.ssq.plan[h.planIdx]? = some e → s.sru.claim = .none → s.sgl.link = .idle →
    let told := generate (.spotDone b.serial b.zoneSeq e.spotId s.ssq.pass e.outcome e.cause res h.earlyOpen) s
    let sru := { s.sru with request := none, waitTimer := none, expiryHeld := false, visitRequested := false }
    (∀ next, s.ssq.pass = .main → s.ssq.ending = false → s.ssq.plan[s.ssq.cursor + 1]? = some next →
      (scheduleOf s.pst next.sched).mark = .usable →
      exec .holdEnd s = .next { told with
        sru := sru,
        ssq := { s.ssq with state := .awaitGun, inHand := none, cursor := s.ssq.cursor + 1, moveTimer := 0,
                            moveOpen := true, late := false } }) ∧
    (∀ i rest ids, s.ssq.pass = .main → s.ssq.ending = false → s.ssq.cursor + 1 = s.ssq.plan.length →
      s.ssq.deferred = i :: rest →
      s.ssq.deferred.map (fun k => s.ssq.plan[k]?.map PlanEntry.spotId) = ids.map some →
      exec .holdEnd s = .next { generate (.revisitStart b.serial b.zoneSeq ids) told with
        sru := sru,
        ssq := { s.ssq with state := .awaitGun, pass := .revisit, inHand := none, cursor := s.ssq.cursor + 1,
                            moveTimer := 0, moveOpen := false, late := false } }) ∧
    (∀ i rest, s.ssq.pass = .revisit → s.ssq.ending = false → s.ssq.plan.length ≤ s.ssq.cursor →
      s.ssq.deferred = i :: rest →
      exec .holdEnd s = .next { told with sru := sru, ssq := { s.ssq with state := .awaitGun, inHand := none } }) ∧
    (∀ r, s.bq.queue = [r] →
      s.ssq.ending = true ∨ (s.ssq.deferred = [] ∧
        ((s.ssq.pass = .main ∧ s.ssq.cursor + 1 = s.ssq.plan.length) ∨
          (s.ssq.pass = .revisit ∧ s.ssq.plan.length ≤ s.ssq.cursor))) →
      let count (o : Outcome) := (s.ssq.plan.filter fun x => decide (x.outcome = o)).length
      ∃ ssq, exec .holdEnd s = .next {
          generate (.bodyDone b.serial b.zoneSeq b.style b.program false s.ssq.ending (count .good) (count .suspect)
            (count .aborted) (count .missed) s.bodyE) told with
          sru := sru, bq := { s.bq with queue := [] }, ssq := ssq } ∧
        ssq.state = .idle ∧ ssq.active = none ∧ ssq.plan = [] ∧ ssq.deferred = [] ∧ ssq.ending = false ∧
        ssq.inHand = none ∧ ssq.moveOpen = false ∧ ssq.learned = s.ssq.learned)

/-! ### The stage link and the current profile -/

/-- R45, R91, R100, R102, R123, R124, R127 to R131, R148: an update in PRESTART: with too little lapse left the spot is
given up without current: the update carries 0, the claim is released, the spot is MISSED STAGE, with its SPOT-DONE,
and the next is awaited; else it waits with setpoint 0 while the stage is not ready, and begins current when it is. It
then counts the spot in W, raises TIP_DRESS_DUE where W rises to the dress limit, and carries the first setpoint of the
upslope, LINEAR or GEOMETRIC, or, with an upslope of 0, of the first pulse. -/
def Obligations.PrestartWaitsBeginsOrGivesUp : Prop :=
  ∀ (s : State) (sp : CpgSpot) (r : Row), s.updateDue .prestart → s.cpg.spot = some sp → s.ownRow = some r →
    let c := scheduleOf s.pst sp.sched
    let budget := 2 * (profileMs c + reserveMs c + 4)
    (ceilDiv (2 * r.lapse) 1000 < budget →
      (∃ t, exec .stageUpdate s = .next t ∧ t.cpg.phase = .off ∧ t.cpg.setpoint = 0 ∧
        t.cpg.w = s.cpg.w ∧ t.plt = s.plt) ∧
      (∀ h e next b, s.sru.claim = .granted → s.midPlan h e next b →
        ∃ t, exec .stageUpdate s = .next t ∧ s.releasedIn t r ∧
          t.sru = { s.sru.visitOver .releasing with record := t.sru.record } ∧ t.ssq = s.ssqMissed .stage ∧
          t.rlk = s.rlkMissed b e .stage h.earlyOpen ∧ t.sgl.link = .idle ∧
          t.sgl.lastFrame = setpointFrame s.sgl.nextNum 0)) ∧
    (budget ≤ ceilDiv (2 * r.lapse) 1000 → stageReady s.sgl = false →
      exec .stageUpdate s = .next (s.withSetpoint 0)) ∧
    (budget ≤ ceilDiv (2 * r.lapse) 1000 → stageReady s.sgl = true → s.sru.claim = .granted → s.cpg.w ≤ 65535 →
      let begun := s.withBegun
      let upslope := { begun with cpg := { begun.cpg with phase := .upslope, count := 0 } }
      (0 < c.upslope → c.shape = 0 → exec .stageUpdate s = .next (upslope.withSetpoint (s.cpg.g * 1 / (2 * c.upslope)))) ∧
      (0 < c.upslope → c.shape ≠ 0 → s.cpg.setpoint = 0 →
        exec .stageUpdate s = .next (upslope.withSetpoint ((s.cpg.g + 7) / 8))) ∧
      (c.upslope = 0 → exec .stageUpdate s = .next (begun.withPulse c)))

/-- R131, R136, R145, R150, R153, R156, R191: an update inside a pulse carries G as the next position of the pulse. A
sample frame is accepted with the link ACTIVE, the latest update not answered, six bytes, its number echoed in byte 0,
and byte 5 the exclusive OR of the others, complemented: it answers the update and gives its status, and in PULSE it
adds its samples unless the position is blanked. With OVERTEMP or SUPPLY_LOW it orders an abort STAGE in current,
which cuts a pulse short. Any other bytes change nothing: R145 says so of another number and a second answer, R191 of
a wrong check and of fewer than six bytes, R147 and R148 of a link out of ACTIVE; of more than six bytes it is the
model's reading (log 20, DEDUCED). -/
def Obligations.PulseUpdateAndItsSample : Prop :=
  ∀ s : State,
    (∀ sp, s.updateDue .pulse → s.cpg.spot = some sp → s.cpg.count < 2 * (scheduleOf s.pst sp.sched).pulse →
      exec .stageUpdate s = .next { s.withSetpoint s.cpg.g with wmn := { s.wmn with pos := s.wmn.pos + 1 } }) ∧
    (∀ bytes : List Byte,
      ¬(s.sgl.link = .active ∧ s.sgl.answered = false ∧ ∃ b0 b1 b2 b3 b4 : Byte,
        bytes = [b0, b1, b2, b3, b4, ~~~(b0 ^^^ b1 ^^^ b2 ^^^ b3 ^^^ b4)] ∧
          b0.toNat = (s.sgl.nextNum + 255) % 256) →
      exec (.sampleFrame bytes) s = .next s) ∧
    (∀ b0 b1 b2 b3 b4 : Byte, s.sgl.link = .active → s.sgl.answered = false →
      b0.toNat = (s.sgl.nextNum + 255) % 256 →
      let bytes := [b0, b1, b2, b3, b4, ~~~(b0 ^^^ b1 ^^^ b2 ^^^ b3 ^^^ b4)]
      let status : StageStatus :=
        { ready := b1.getLsbD 7, overtemp := b1.getLsbD 6, supplyLow := b1.getLsbD 5 }
      let answered := { s with sgl := { s.sgl with answered := true, missing := 0, status := some status } }
      let sampled :=
        if s.wmn.blank < s.wmn.pos then
          { s.wmn with
            iSum := s.wmn.iSum + (b1.toNat * 256 + b2.toNat) % 4096,
            vSum := s.wmn.vSum + (b3.toNat * 256 + b4.toNat) % 1024, judged := s.wmn.judged + 1 }
        else s.wmn
      (b1.getLsbD 6 = true ∨ b1.getLsbD 5 = true → s.inCurrent →
        exec (.sampleFrame bytes) s = .next { answered with
          cpg := s.cpgAborting .stage s.settings.abortPath, wmn := s.wmnCut }) ∧
      (s.cpg.phase = .pulse → b1.getLsbD 6 = false → b1.getLsbD 5 = false →
        exec (.sampleFrame bytes) s = .next { answered with wmn := sampled }) ∧
      (s.cpg.phase ≠ .pulse → (b1.getLsbD 6 = false ∧ b1.getLsbD 5 = false) ∨ ¬s.inCurrent →
        exec (.sampleFrame bytes) s = .next answered))

/-- R130 to R132, R134: the later updates of the phases between the pulses: a GEOMETRIC upslope closes an eighth of what
remains to G, rounded up, and the rest at its last update; COOL carries 0; the update after either begins the next
pulse; DOWNSLOPE falls evenly to the end level. R45, R91, R99, R101, R135, R148, R159: the update after the last of
DOWNSLOPE carries 0 and is current end: the CPG is OFF, the stage link IDLE, the claim released, the spot GOOD with a
worst result of OK and else SUSPECT, and HOLD runs for the schedule's hold. -/
def Obligations.CurrentEndJudgesTheSpot : Prop :=
  (∀ (s : State) (sp : CpgSpot), s.cpg.spot = some sp →
    let c := scheduleOf s.pst sp.sched
    let g := s.cpg.g
    (s.updateDue .upslope →
      (c.shape ≠ 0 → s.cpg.count + 1 < 2 * c.upslope →
        exec .stageUpdate s = .next (s.withSetpoint (s.cpg.setpoint + (g - s.cpg.setpoint + 7) / 8))) ∧
      (c.shape ≠ 0 → s.cpg.count + 1 = 2 * c.upslope → exec .stageUpdate s = .next (s.withSetpoint g)) ∧
      (2 * c.upslope ≤ s.cpg.count → exec .stageUpdate s = .next (s.withPulse c))) ∧
    (s.updateDue .cool →
      (s.cpg.count < 2 * c.cool → exec .stageUpdate s = .next (s.withSetpoint 0)) ∧
      (2 * c.cool ≤ s.cpg.count → exec .stageUpdate s = .next (s.withPulse c))) ∧
    (s.updateDue .downslope → s.cpg.count < 2 * c.downslope →
      exec .stageUpdate s =
        .next (s.withSetpoint (g - (g - g * c.endPercent / 100) * (s.cpg.count + 1) / (2 * c.downslope))))) ∧
  ∀ (s : State) (sp : CpgSpot) (h : SpotInHand) (e : PlanEntry), s.updateDue .downslope → s.cpg.spot = some sp →
    s.ssq.inHand = some h → h.earlyOpen = false → s.ssq.plan[h.planIdx]? = some e → e.sched = sp.sched →
    0 < (scheduleOf s.pst sp.sched).hold → 2 * (scheduleOf s.pst sp.sched).downslope ≤ s.cpg.count →
    s.cpg.abort = none →
    ∃ t, exec .stageUpdate s = .next t ∧ t.cpg.phase = .off ∧ t.cpg.setpoint = 0 ∧ t.cpg.spot = none ∧
      t.cpg.w = s.cpg.w ∧ t.sgl.link = .idle ∧ t.sgl.lastFrame = setpointFrame s.sgl.nextNum 0 ∧ t.ssq.state = .hold ∧
      t.ssq.plan[h.planIdx]? = some { e with outcome := if s.wmn.worst = .ok then .good else .suspect, cause := .none } ∧
      t.ssq.inHand = some { h with
        holdLeft := (scheduleOf s.pst sp.sched).hold * 1000,
        result := some { worst := s.wmn.worst, mean := s.wmn.lastMean, res := s.wmn.lastRes, pulses := s.cpg.pulseIdx,
                         ext := s.cpg.extUsed } } ∧
      t.ssq.deferred = s.ssq.deferred.filter (fun i => decide (i ≠ h.planIdx)) ∧
      t.plt = s.plt ∧ t.bq = s.bq ∧ t.wmn = s.wmn ∧ t.sru.request = none ∧ t.sru.waitTimer = none ∧
      (∀ r, s.sru.claim = .granted → s.ownRow = some r → s.releasedIn t r)

/-- R45, R99, R137, R138, R140, R142: on the RAMP path update k carries S0 less floor(S0 × k / 8); the eighth, the
first of the CUT path, and the first after the slot was lost carry 0 and end the current: the CPG is OFF, the stage
link IDLE, the claim released, and the spot ABORTED with the cause of the abort. -/
def Obligations.AbortPathBringsCurrentToZero : Prop :=
  ∀ (s : State) (a : AbortRecord), s.updateDue .aborting → s.cpg.abort = some a →
    (a.path = .ramp → s.cpg.slotLost = false → s.cpg.count < 7 →
      exec .stageUpdate s = .next (s.withSetpoint (a.s0 - a.s0 * (s.cpg.count + 1) / 8))) ∧
    (a.path = .cut ∨ s.cpg.slotLost = true ∨ 7 ≤ s.cpg.count →
      ∃ t, exec .stageUpdate s = .next t ∧ t.cpg.phase = .off ∧ t.cpg.setpoint = 0 ∧
        t.sgl.lastFrame = setpointFrame s.sgl.nextNum 0 ∧ t.sgl.link = .idle ∧
        ∀ h e, s.ssq.inHand = some h → h.earlyOpen = false → s.ssq.plan[h.planIdx]? = some e →
          0 < (scheduleOf s.pst e.sched).hold →
          t.ssq.state = .hold ∧ t.ssq.plan[h.planIdx]? = some { e with outcome := .aborted, cause := a.cause } ∧
          ∀ r, s.sru.claim = .granted → s.ownRow = some r → s.releasedIn t r)

/-- R45, R100, R137, R139, R140, R146, R147, R156, R160: the third unanswered update in a row is a LINK fault: the update
carries 0, the CPG is OFF, the claim is released, the spot is ABORTED LINK, a pulse in progress cut short, and the stage
link stays in FAULT, sending 0, through the hold. An abort that runs is ended by it and keeps its cause. In PRESTART the
spot is MISSED STAGE instead, and FAULT ends with it. At the update at which a pulse ends, the pulse is judged, and its
own abort, or LINK, is the cause: which of the two comes first R160 leaves open, and so does this. -/
def Obligations.ThirdMissingAnswerIsALinkFault : Prop :=
  ∀ (s : State) (h : SpotInHand) (e : PlanEntry), s.sgl.link = .active → s.sgl.answered = false → s.sgl.missing = 2 →
    s.sgl.updateIn = 0 → s.ssq.inHand = some h →
    (∀ sp, s.inCurrent → h.earlyOpen = false → s.ssq.plan[h.planIdx]? = some e → s.cpg.spot = some sp →
      0 < (scheduleOf s.pst e.sched).hold →
      ∃ t cause, exec .stageUpdate s = .next t ∧ t.cpg.phase = .off ∧ t.cpg.setpoint = 0 ∧
        t.sgl.lastFrame = setpointFrame s.sgl.nextNum 0 ∧ t.sgl.link = .fault ∧ t.ssq.state = .hold ∧
        t.ssq.plan[h.planIdx]? = some { e with outcome := .aborted, cause := cause } ∧ t.plt = s.plt ∧
        (∀ r, s.sru.claim = .granted → s.ownRow = some r → s.releasedIn t r) ∧
        exec .stageUpdate { t with sgl := { t.sgl with updateIn := 0 } } =
          .next { t with sgl := { t.sgl with lastFrame := setpointFrame t.sgl.nextNum 0,
                                             nextNum := (t.sgl.nextNum + 1) % 256, answered := false,
                                             updateIn := 500 } } ∧
        (s.cpg.phase ≠ .pulse ∨ s.cpg.count < 2 * (scheduleOf s.pst sp.sched).pulse →
          cause = .link ∧ t.wmn = s.wmnCut) ∧
        (s.cpg.phase = .pulse → s.cpg.count = 2 * (scheduleOf s.pst sp.sched).pulse →
          let r := pulseJudgement s.wmn
          t.wmn.results = s.wmn.results.set (s.wmn.pulseIdx - 1) (.judged r) ∧
          (cause = .link ∨
            ((scheduleOf s.pst sp.sched).action = 1 ∧
              ((r = .high ∧ cause = .high) ∨ (r = .none ∧ cause = .noCurrent)))))) ∧
    (∀ a, s.cpg.phase = .aborting → s.cpg.abort = some a → h.earlyOpen = false →
      s.ssq.plan[h.planIdx]? = some e → 0 < (scheduleOf s.pst e.sched).hold →
      ∃ t, exec .stageUpdate s = .next t ∧ t.cpg.phase = .off ∧ t.cpg.setpoint = 0 ∧
        t.sgl.lastFrame = setpointFrame s.sgl.nextNum 0 ∧ t.sgl.link = .fault ∧ t.ssq.state = .hold ∧
        t.ssq.plan[h.planIdx]? = some { e with outcome := .aborted, cause := a.cause } ∧ t.plt = s.plt ∧ t.wmn = s.wmn ∧
        (∀ r, s.sru.claim = .granted → s.ownRow = some r → s.releasedIn t r)) ∧
    (∀ next b r, s.cpg.phase = .prestart → s.midPlan h e next b → s.sru.claim = .granted → s.ownRow = some r →
      ∃ t, exec .stageUpdate s = .next t ∧ t.cpg.phase = .off ∧ t.cpg.setpoint = 0 ∧ t.cpg.w = s.cpg.w ∧
        t.sgl.lastFrame = setpointFrame s.sgl.nextNum 0 ∧ t.sgl.link = .idle ∧ s.releasedIn t r ∧
        t.ssq = s.ssqMissed .stage ∧ t.rlk = s.rlkMissed b e .stage h.earlyOpen ∧ t.plt = s.plt)

/-- R129: the LINEAR upslope of u ms. It begins at the update at which current begins, with the setpoint of k = 1;
each of its 2 × u updates carries floor(G × k / n); the next is the first of PULSE. The setpoint rises by floor(G / n)
or one more at each update, the first setpoints are 0 where G is smaller than n, with the current begun all the same,
and the last is G. -/
def Obligations.LinearUpslopeRisesEvenlyToG : Prop :=
  ∀ (s : State) (sp : CpgSpot) (r : Row), s.cpg.spot = some sp → (scheduleOf s.pst sp.sched).shape = 0 →
    1 ≤ (scheduleOf s.pst sp.sched).upslope →
    let c := scheduleOf s.pst sp.sched
    let n := 2 * c.upslope
    let g := s.cpg.g
    (s.updateDue .prestart → s.ownRow = some r → stageReady s.sgl = true → s.sru.claim = .granted →
      2 * (profileMs c + reserveMs c + 4) ≤ ceilDiv (2 * r.lapse) 1000 →
      ∃ t, exec .stageUpdate s = .next t ∧ t.cpg.phase = .upslope ∧ t.cpg.count = 1 ∧ t.cpg.begun = true ∧
        t.cpg.setpoint = g * 1 / n) ∧
    (s.updateDue .upslope → s.cpg.count < n →
      exec .stageUpdate s = .next (s.withSetpoint (g * (s.cpg.count + 1) / n))) ∧
    (s.updateDue .upslope → n ≤ s.cpg.count →
      ∃ t, exec .stageUpdate s = .next t ∧ t.cpg.phase = .pulse ∧ t.cpg.count = 1) ∧
    (∀ k, k < n → g * (k + 1) / n = g * k / n + g / n ∨ g * (k + 1) / n = g * k / n + g / n + 1) ∧
    (∀ k, g * k < n → g * k / n = 0) ∧ g * n / n = g

/-- R131 to R134, R136, R144, R152 to R155, R157, R158: the judgement of a pulse and its resistance, and the update at
which a pulse ends: its result, means and the worst result of the counted pulses are recorded; HIGH or NONE under the
ABORT action begins an abort with this update as the first of its path, RAMP where the slot is not lost, or CUT; else
the update begins COOL, or the next pulse with a cool of 0, the extension pulse where R133 grants it, or DOWNSLOPE. -/
def Obligations.PulseJudgementFollowsTheWindow : Prop :=
  (∀ m : Wmn,
    (m.judged = 0 → pulseJudgement m = .none ∧ pulseResistance m = 65535) ∧
    (0 < m.judged →
      (m.iSum / m.judged < m.noneBelow → pulseJudgement m = .none) ∧
      (m.noneBelow ≤ m.iSum / m.judged → m.iSum / m.judged < m.lowBelow → pulseJudgement m = .low) ∧
      (m.noneBelow ≤ m.iSum / m.judged → m.lowBelow ≤ m.iSum / m.judged → m.highAbove < m.iSum / m.judged →
        pulseJudgement m = .high) ∧
      (m.noneBelow ≤ m.iSum / m.judged → m.lowBelow ≤ m.iSum / m.judged → m.iSum / m.judged ≤ m.highAbove →
        pulseJudgement m = .ok) ∧
      (0 < m.iSum / m.judged →
        pulseResistance m = min 65535 (1000 * (m.vSum / m.judged) / (m.iSum / m.judged))))) ∧
  ∀ (s : State) (sp : CpgSpot), s.updateDue .pulse → s.cpg.spot = some sp → s.wmn.results.length = 9 →
    2 * (scheduleOf s.pst sp.sched).pulse ≤ s.cpg.count →
    let c := scheduleOf s.pst sp.sched
    let g := s.cpg.g
    let r := pulseJudgement s.wmn
    let results := s.wmn.results.set (s.wmn.pulseIdx - 1) (.judged r)
    let counts (i : Nat) (x : Worst) : Prop := results[i]? = some (.judged x) ∧
      ¬(i + 1 = c.pulses ∧ ∃ y, results[c.pulses]? = some (.judged y))
    ∃ worst, (worst = .ok ∨ ∃ i, counts i worst) ∧ (∀ i x, counts i x → severity x ≤ severity worst) ∧
      let u := { s with wmn := { s.wmn with
        results := results, worst := worst, lastMean := if s.wmn.judged = 0 then 0 else s.wmn.iSum / s.wmn.judged,
        lastRes := pulseResistance s.wmn } }
      let cools (used : Bool) :=
        { u with cpg := { s.cpg with phase := .cool, count := 0, extUsed := used } }.withSetpoint 0
      let pulses (used : Bool) := { u with cpg := { s.cpg with extUsed := used } }.withPulse c
      let goesOn (used : Bool) := if c.cool = 0 then pulses used else cools used
      let granted : Prop := r = .low ∧ c.retry = 1 ∧ s.cpg.extUsed = false ∧ ∃ row, s.ownRow = some row ∧
        2 * (c.cool + c.pulse + c.downslope + 4) ≤ ceilDiv (2 * row.lapse) 1000
      (∀ cause, c.action = 1 → (r = .high ∧ cause = .high) ∨ (r = .none ∧ cause = .noCurrent) →
        (s.settings.abortPath = .ramp → s.cpg.slotLost = false → exec .stageUpdate s = .next
          ({ u with cpg := s.cpgAborting cause .ramp }.withSetpoint (s.cpg.setpoint - s.cpg.setpoint / 8))) ∧
        (s.settings.abortPath = .cut →
          ∃ t, exec .stageUpdate s = .next t ∧ t.wmn = u.wmn ∧ t.cpg.phase = .off ∧ t.cpg.setpoint = 0 ∧
            t.sgl.lastFrame = setpointFrame s.sgl.nextNum 0 ∧ t.sgl.link = .idle ∧
            ∀ h e, s.ssq.inHand = some h → h.earlyOpen = false → s.ssq.plan[h.planIdx]? = some e →
              0 < (scheduleOf s.pst e.sched).hold →
              t.ssq.plan[h.planIdx]? = some { e with outcome := .aborted, cause := cause })) ∧
      (c.action ≠ 1 ∨ r = .ok ∨ r = .low →
        (s.cpg.pulseIdx < c.pulses → exec .stageUpdate s = .next (goesOn s.cpg.extUsed)) ∧
        (s.cpg.pulseIdx = c.pulses → granted → exec .stageUpdate s = .next (goesOn true)) ∧
        (c.pulses < s.cpg.pulseIdx ∨ (s.cpg.pulseIdx = c.pulses ∧ ¬granted) → 0 < c.downslope →
          exec .stageUpdate s = .next ({ u with cpg := { s.cpg with phase := .downslope, count := 0 } }.withSetpoint
            (g - (g - g * c.endPercent / 100) * 1 / (2 * c.downslope)))))

/-! ### The image -/

/-- R181, R184: the length test: a header that fails it ends the load at once, INERT, with IMAGE_BAD (LENGTH), the
memory deselected; one that passes starts the read, counted in blocks of 256 bytes, up to the image length, the memory
deselected and the phase VALIDATING. Model's readings: the bytes the commands bring, a block the rest up to its end
(log 25, DEDUCED); that the end of the read only enters VALIDATING (log 13, DEDUCED); when the memory is selected and
deselected (log 30, DEDUCED). -/
def Obligations.ImageReadCountsBlocks : Prop :=
  ∀ s : State, s.zbc.node = .loading → s.iml.phase = .reading →
    (∀ length records : BitVec 16, s.iml.tested = false → s.iml.image = [] →
      (¬(records.toNat ≤ 1024 ∧ length.toNat = 1537 + 5 * records.toNat) →
        exec (.headerLengthRead length records) s = .next (raise .imageBad 1 0 0 0 { s with
          zbc := { s.zbc with node := .inert },
          iml := { s.iml with phase := .bad, reason := .length, item := 0, length := 0, selected := false } })) ∧
      (records.toNat ≤ 1024 → length.toNat = 1537 + 5 * records.toNat →
        exec (.headerLengthRead length records) s = .next { s with
          iml := { s.iml with tested := true, length := length.toNat,
                              image := bytes2 length.toNat ++ bytes2 records.toNat } })) ∧
    (∀ bytes, s.iml.tested = true → s.iml.image.length + bytes.length = 256 * (s.iml.blocks + 1) →
      256 * (s.iml.blocks + 1) ≤ s.iml.length →
      exec (.blockRead bytes) s = .next { s with
        iml := { s.iml with image := s.iml.image ++ bytes, blocks := s.iml.blocks + 1 } }) ∧
    (∀ bytes, s.iml.tested = true → s.iml.image.length + bytes.length = s.iml.length →
      s.iml.length < 256 * (s.iml.blocks + 1) →
      exec (.imageReadComplete bytes) s = .next { s with
        iml := { s.iml with image := s.iml.image ++ bytes, blocks := (s.iml.length + 255) / 256,
                            phase := .validating, selected := false } })

/-- R182 to R184, R187: the end of VALIDATING: a bad check, id or header item leads to INERT with IMAGE_BAD and
nothing given to any block; a good image gives its settings and its store, sets the pitch and enters JOINING, and
everything else stands, the claim, the line and the slots where no CLAIM is chosen. That one command makes every test
is the model's reading (log 13, DEDUCED). -/
def Obligations.ValidationEndsTheLoad : Prop :=
  ∀ s : State, s.zbc.node = .loading → s.iml.phase = .validating →
    (∀ reason item, imageFailure s.iml.image = some (reason, item) →
      exec .validationEnd s = .next (raise .imageBad (byte (loadReasonCode reason)) (byte item) 0 0 { s with
        zbc := { s.zbc with node := .inert },
        iml := { s.iml with phase := .bad, reason := reason, item := item, tested := false, length := 0,
                            image := [] } })) ∧
    (imageFailure s.iml.image = none →
      ∃ t, exec .validationEnd s = .next t ∧ t.zbc.node = .joining ∧ t.zbc.joinTimer = some 520000 ∧
        t.zbc.failures = 0 ∧ (∀ id, rowOf t.plt id = none) ∧ t.plt.derate = s.plt.derate ∧
        t.iml = { s.iml with phase := .good, tested := false, length := 0, image := [] } ∧
        t.settings = imageSettings s.iml.image ∧ t.pst = imageStore s.iml.image ∧
        t.bq = { s.bq with history := List.replicate 8 (imagePitch s.iml.image),
                           basePitch := imagePitch s.iml.image } ∧
        t.ssq = s.ssq ∧ t.cpg = s.cpg ∧ t.sgl = s.sgl ∧ t.wmn = s.wmn ∧ t.pending = s.pending ∧
        t.rlk = (if unusableCount (imageStore s.iml.image) = 0 then s
          else raise .scheduleBad 0 0 0 (byte (unusableCount (imageStore s.iml.image))) s).rlk ∧
        (s.zbc.chosen ≠ some .claim → t.sru = s.sru ∧
          t.zbc = { s.zbc with node := .joining, failures := 0, joinTimer := some 520000 }))
end

