-- ==== Sys2Proof/Laws/State.lean ====
section
/-! SUPPORT. What each change of one block does to each field of State. -/

namespace Sys2Proof.Machine

variable (s : State)

@[simp] theorem State.modZbc_zbc (g : Zbc → Zbc) : (s.modZbc g).zbc = g s.zbc := rfl
@[simp] theorem State.modZbc_plt (g : Zbc → Zbc) : (s.modZbc g).plt = s.plt := rfl
@[simp] theorem State.modZbc_sru (g : Zbc → Zbc) : (s.modZbc g).sru = s.sru := rfl
@[simp] theorem State.modZbc_bq (g : Zbc → Zbc) : (s.modZbc g).bq = s.bq := rfl
@[simp] theorem State.modZbc_pst (g : Zbc → Zbc) : (s.modZbc g).pst = s.pst := rfl
@[simp] theorem State.modZbc_settings (g : Zbc → Zbc) : (s.modZbc g).settings = s.settings := rfl
@[simp] theorem State.modZbc_ssq (g : Zbc → Zbc) : (s.modZbc g).ssq = s.ssq := rfl
@[simp] theorem State.modZbc_cpg (g : Zbc → Zbc) : (s.modZbc g).cpg = s.cpg := rfl
@[simp] theorem State.modZbc_wmn (g : Zbc → Zbc) : (s.modZbc g).wmn = s.wmn := rfl
@[simp] theorem State.modZbc_sgl (g : Zbc → Zbc) : (s.modZbc g).sgl = s.sgl := rfl
@[simp] theorem State.modZbc_rlk (g : Zbc → Zbc) : (s.modZbc g).rlk = s.rlk := rfl
@[simp] theorem State.modZbc_iml (g : Zbc → Zbc) : (s.modZbc g).iml = s.iml := rfl
@[simp] theorem State.modZbc_clockedBeyond (g : Zbc → Zbc) : (s.modZbc g).clockedBeyond = s.clockedBeyond := rfl
@[simp] theorem State.modZbc_freeIndex (g : Zbc → Zbc) : (s.modZbc g).freeIndex = s.freeIndex := rfl
@[simp] theorem State.modZbc_pending (g : Zbc → Zbc) : (s.modZbc g).pending = s.pending := rfl

@[simp] theorem State.modPlt_zbc (g : Plt → Plt) : (s.modPlt g).zbc = s.zbc := rfl
@[simp] theorem State.modPlt_plt (g : Plt → Plt) : (s.modPlt g).plt = g s.plt := rfl
@[simp] theorem State.modPlt_sru (g : Plt → Plt) : (s.modPlt g).sru = s.sru := rfl
@[simp] theorem State.modPlt_bq (g : Plt → Plt) : (s.modPlt g).bq = s.bq := rfl
@[simp] theorem State.modPlt_pst (g : Plt → Plt) : (s.modPlt g).pst = s.pst := rfl
@[simp] theorem State.modPlt_settings (g : Plt → Plt) : (s.modPlt g).settings = s.settings := rfl
@[simp] theorem State.modPlt_ssq (g : Plt → Plt) : (s.modPlt g).ssq = s.ssq := rfl
@[simp] theorem State.modPlt_cpg (g : Plt → Plt) : (s.modPlt g).cpg = s.cpg := rfl
@[simp] theorem State.modPlt_wmn (g : Plt → Plt) : (s.modPlt g).wmn = s.wmn := rfl
@[simp] theorem State.modPlt_sgl (g : Plt → Plt) : (s.modPlt g).sgl = s.sgl := rfl
@[simp] theorem State.modPlt_rlk (g : Plt → Plt) : (s.modPlt g).rlk = s.rlk := rfl
@[simp] theorem State.modPlt_iml (g : Plt → Plt) : (s.modPlt g).iml = s.iml := rfl
@[simp] theorem State.modPlt_clockedBeyond (g : Plt → Plt) : (s.modPlt g).clockedBeyond = s.clockedBeyond := rfl
@[simp] theorem State.modPlt_freeIndex (g : Plt → Plt) : (s.modPlt g).freeIndex = s.freeIndex := rfl
@[simp] theorem State.modPlt_pending (g : Plt → Plt) : (s.modPlt g).pending = s.pending := rfl

@[simp] theorem State.modSru_zbc (g : Sru → Sru) : (s.modSru g).zbc = s.zbc := rfl
@[simp] theorem State.modSru_plt (g : Sru → Sru) : (s.modSru g).plt = s.plt := rfl
@[simp] theorem State.modSru_sru (g : Sru → Sru) : (s.modSru g).sru = g s.sru := rfl
@[simp] theorem State.modSru_bq (g : Sru → Sru) : (s.modSru g).bq = s.bq := rfl
@[simp] theorem State.modSru_pst (g : Sru → Sru) : (s.modSru g).pst = s.pst := rfl
@[simp] theorem State.modSru_settings (g : Sru → Sru) : (s.modSru g).settings = s.settings := rfl
@[simp] theorem State.modSru_ssq (g : Sru → Sru) : (s.modSru g).ssq = s.ssq := rfl
@[simp] theorem State.modSru_cpg (g : Sru → Sru) : (s.modSru g).cpg = s.cpg := rfl
@[simp] theorem State.modSru_wmn (g : Sru → Sru) : (s.modSru g).wmn = s.wmn := rfl
@[simp] theorem State.modSru_sgl (g : Sru → Sru) : (s.modSru g).sgl = s.sgl := rfl
@[simp] theorem State.modSru_rlk (g : Sru → Sru) : (s.modSru g).rlk = s.rlk := rfl
@[simp] theorem State.modSru_iml (g : Sru → Sru) : (s.modSru g).iml = s.iml := rfl
@[simp] theorem State.modSru_clockedBeyond (g : Sru → Sru) : (s.modSru g).clockedBeyond = s.clockedBeyond := rfl
@[simp] theorem State.modSru_freeIndex (g : Sru → Sru) : (s.modSru g).freeIndex = s.freeIndex := rfl
@[simp] theorem State.modSru_pending (g : Sru → Sru) : (s.modSru g).pending = s.pending := rfl

@[simp] theorem State.modBq_zbc (g : Bq → Bq) : (s.modBq g).zbc = s.zbc := rfl
@[simp] theorem State.modBq_plt (g : Bq → Bq) : (s.modBq g).plt = s.plt := rfl
@[simp] theorem State.modBq_sru (g : Bq → Bq) : (s.modBq g).sru = s.sru := rfl
@[simp] theorem State.modBq_bq (g : Bq → Bq) : (s.modBq g).bq = g s.bq := rfl
@[simp] theorem State.modBq_pst (g : Bq → Bq) : (s.modBq g).pst = s.pst := rfl
@[simp] theorem State.modBq_settings (g : Bq → Bq) : (s.modBq g).settings = s.settings := rfl
@[simp] theorem State.modBq_ssq (g : Bq → Bq) : (s.modBq g).ssq = s.ssq := rfl
@[simp] theorem State.modBq_cpg (g : Bq → Bq) : (s.modBq g).cpg = s.cpg := rfl
@[simp] theorem State.modBq_wmn (g : Bq → Bq) : (s.modBq g).wmn = s.wmn := rfl
@[simp] theorem State.modBq_sgl (g : Bq → Bq) : (s.modBq g).sgl = s.sgl := rfl
@[simp] theorem State.modBq_rlk (g : Bq → Bq) : (s.modBq g).rlk = s.rlk := rfl
@[simp] theorem State.modBq_iml (g : Bq → Bq) : (s.modBq g).iml = s.iml := rfl
@[simp] theorem State.modBq_clockedBeyond (g : Bq → Bq) : (s.modBq g).clockedBeyond = s.clockedBeyond := rfl
@[simp] theorem State.modBq_freeIndex (g : Bq → Bq) : (s.modBq g).freeIndex = s.freeIndex := rfl
@[simp] theorem State.modBq_pending (g : Bq → Bq) : (s.modBq g).pending = s.pending := rfl

@[simp] theorem State.modPst_zbc (g : Pst → Pst) : (s.modPst g).zbc = s.zbc := rfl
@[simp] theorem State.modPst_plt (g : Pst → Pst) : (s.modPst g).plt = s.plt := rfl
@[simp] theorem State.modPst_sru (g : Pst → Pst) : (s.modPst g).sru = s.sru := rfl
@[simp] theorem State.modPst_bq (g : Pst → Pst) : (s.modPst g).bq = s.bq := rfl
@[simp] theorem State.modPst_pst (g : Pst → Pst) : (s.modPst g).pst = g s.pst := rfl
@[simp] theorem State.modPst_settings (g : Pst → Pst) : (s.modPst g).settings = s.settings := rfl
@[simp] theorem State.modPst_ssq (g : Pst → Pst) : (s.modPst g).ssq = s.ssq := rfl
@[simp] theorem State.modPst_cpg (g : Pst → Pst) : (s.modPst g).cpg = s.cpg := rfl
@[simp] theorem State.modPst_wmn (g : Pst → Pst) : (s.modPst g).wmn = s.wmn := rfl
@[simp] theorem State.modPst_sgl (g : Pst → Pst) : (s.modPst g).sgl = s.sgl := rfl
@[simp] theorem State.modPst_rlk (g : Pst → Pst) : (s.modPst g).rlk = s.rlk := rfl
@[simp] theorem State.modPst_iml (g : Pst → Pst) : (s.modPst g).iml = s.iml := rfl
@[simp] theorem State.modPst_clockedBeyond (g : Pst → Pst) : (s.modPst g).clockedBeyond = s.clockedBeyond := rfl
@[simp] theorem State.modPst_freeIndex (g : Pst → Pst) : (s.modPst g).freeIndex = s.freeIndex := rfl
@[simp] theorem State.modPst_pending (g : Pst → Pst) : (s.modPst g).pending = s.pending := rfl

@[simp] theorem State.modSettings_zbc (g : Settings → Settings) : (s.modSettings g).zbc = s.zbc := rfl
@[simp] theorem State.modSettings_plt (g : Settings → Settings) : (s.modSettings g).plt = s.plt := rfl
@[simp] theorem State.modSettings_sru (g : Settings → Settings) : (s.modSettings g).sru = s.sru := rfl
@[simp] theorem State.modSettings_bq (g : Settings → Settings) : (s.modSettings g).bq = s.bq := rfl
@[simp] theorem State.modSettings_pst (g : Settings → Settings) : (s.modSettings g).pst = s.pst := rfl
@[simp] theorem State.modSettings_settings (g : Settings → Settings) : (s.modSettings g).settings = g s.settings := rfl
@[simp] theorem State.modSettings_ssq (g : Settings → Settings) : (s.modSettings g).ssq = s.ssq := rfl
@[simp] theorem State.modSettings_cpg (g : Settings → Settings) : (s.modSettings g).cpg = s.cpg := rfl
@[simp] theorem State.modSettings_wmn (g : Settings → Settings) : (s.modSettings g).wmn = s.wmn := rfl
@[simp] theorem State.modSettings_sgl (g : Settings → Settings) : (s.modSettings g).sgl = s.sgl := rfl
@[simp] theorem State.modSettings_rlk (g : Settings → Settings) : (s.modSettings g).rlk = s.rlk := rfl
@[simp] theorem State.modSettings_iml (g : Settings → Settings) : (s.modSettings g).iml = s.iml := rfl
@[simp] theorem State.modSettings_clockedBeyond (g : Settings → Settings) :
    (s.modSettings g).clockedBeyond = s.clockedBeyond := rfl
@[simp] theorem State.modSettings_freeIndex (g : Settings → Settings) : (s.modSettings g).freeIndex = s.freeIndex := rfl
@[simp] theorem State.modSettings_pending (g : Settings → Settings) : (s.modSettings g).pending = s.pending := rfl

@[simp] theorem State.modSsq_zbc (g : Ssq → Ssq) : (s.modSsq g).zbc = s.zbc := rfl
@[simp] theorem State.modSsq_plt (g : Ssq → Ssq) : (s.modSsq g).plt = s.plt := rfl
@[simp] theorem State.modSsq_sru (g : Ssq → Ssq) : (s.modSsq g).sru = s.sru := rfl
@[simp] theorem State.modSsq_bq (g : Ssq → Ssq) : (s.modSsq g).bq = s.bq := rfl
@[simp] theorem State.modSsq_pst (g : Ssq → Ssq) : (s.modSsq g).pst = s.pst := rfl
@[simp] theorem State.modSsq_settings (g : Ssq → Ssq) : (s.modSsq g).settings = s.settings := rfl
@[simp] theorem State.modSsq_ssq (g : Ssq → Ssq) : (s.modSsq g).ssq = g s.ssq := rfl
@[simp] theorem State.modSsq_cpg (g : Ssq → Ssq) : (s.modSsq g).cpg = s.cpg := rfl
@[simp] theorem State.modSsq_wmn (g : Ssq → Ssq) : (s.modSsq g).wmn = s.wmn := rfl
@[simp] theorem State.modSsq_sgl (g : Ssq → Ssq) : (s.modSsq g).sgl = s.sgl := rfl
@[simp] theorem State.modSsq_rlk (g : Ssq → Ssq) : (s.modSsq g).rlk = s.rlk := rfl
@[simp] theorem State.modSsq_iml (g : Ssq → Ssq) : (s.modSsq g).iml = s.iml := rfl
@[simp] theorem State.modSsq_clockedBeyond (g : Ssq → Ssq) : (s.modSsq g).clockedBeyond = s.clockedBeyond := rfl
@[simp] theorem State.modSsq_freeIndex (g : Ssq → Ssq) : (s.modSsq g).freeIndex = s.freeIndex := rfl
@[simp] theorem State.modSsq_pending (g : Ssq → Ssq) : (s.modSsq g).pending = s.pending := rfl

@[simp] theorem State.modCpg_zbc (g : Cpg → Cpg) : (s.modCpg g).zbc = s.zbc := rfl
@[simp] theorem State.modCpg_plt (g : Cpg → Cpg) : (s.modCpg g).plt = s.plt := rfl
@[simp] theorem State.modCpg_sru (g : Cpg → Cpg) : (s.modCpg g).sru = s.sru := rfl
@[simp] theorem State.modCpg_bq (g : Cpg → Cpg) : (s.modCpg g).bq = s.bq := rfl
@[simp] theorem State.modCpg_pst (g : Cpg → Cpg) : (s.modCpg g).pst = s.pst := rfl
@[simp] theorem State.modCpg_settings (g : Cpg → Cpg) : (s.modCpg g).settings = s.settings := rfl
@[simp] theorem State.modCpg_ssq (g : Cpg → Cpg) : (s.modCpg g).ssq = s.ssq := rfl
@[simp] theorem State.modCpg_cpg (g : Cpg → Cpg) : (s.modCpg g).cpg = g s.cpg := rfl
@[simp] theorem State.modCpg_wmn (g : Cpg → Cpg) : (s.modCpg g).wmn = s.wmn := rfl
@[simp] theorem State.modCpg_sgl (g : Cpg → Cpg) : (s.modCpg g).sgl = s.sgl := rfl
@[simp] theorem State.modCpg_rlk (g : Cpg → Cpg) : (s.modCpg g).rlk = s.rlk := rfl
@[simp] theorem State.modCpg_iml (g : Cpg → Cpg) : (s.modCpg g).iml = s.iml := rfl
@[simp] theorem State.modCpg_clockedBeyond (g : Cpg → Cpg) : (s.modCpg g).clockedBeyond = s.clockedBeyond := rfl
@[simp] theorem State.modCpg_freeIndex (g : Cpg → Cpg) : (s.modCpg g).freeIndex = s.freeIndex := rfl
@[simp] theorem State.modCpg_pending (g : Cpg → Cpg) : (s.modCpg g).pending = s.pending := rfl

@[simp] theorem State.modWmn_zbc (g : Wmn → Wmn) : (s.modWmn g).zbc = s.zbc := rfl
@[simp] theorem State.modWmn_plt (g : Wmn → Wmn) : (s.modWmn g).plt = s.plt := rfl
@[simp] theorem State.modWmn_sru (g : Wmn → Wmn) : (s.modWmn g).sru = s.sru := rfl
@[simp] theorem State.modWmn_bq (g : Wmn → Wmn) : (s.modWmn g).bq = s.bq := rfl
@[simp] theorem State.modWmn_pst (g : Wmn → Wmn) : (s.modWmn g).pst = s.pst := rfl
@[simp] theorem State.modWmn_settings (g : Wmn → Wmn) : (s.modWmn g).settings = s.settings := rfl
@[simp] theorem State.modWmn_ssq (g : Wmn → Wmn) : (s.modWmn g).ssq = s.ssq := rfl
@[simp] theorem State.modWmn_cpg (g : Wmn → Wmn) : (s.modWmn g).cpg = s.cpg := rfl
@[simp] theorem State.modWmn_wmn (g : Wmn → Wmn) : (s.modWmn g).wmn = g s.wmn := rfl
@[simp] theorem State.modWmn_sgl (g : Wmn → Wmn) : (s.modWmn g).sgl = s.sgl := rfl
@[simp] theorem State.modWmn_rlk (g : Wmn → Wmn) : (s.modWmn g).rlk = s.rlk := rfl
@[simp] theorem State.modWmn_iml (g : Wmn → Wmn) : (s.modWmn g).iml = s.iml := rfl
@[simp] theorem State.modWmn_clockedBeyond (g : Wmn → Wmn) : (s.modWmn g).clockedBeyond = s.clockedBeyond := rfl
@[simp] theorem State.modWmn_freeIndex (g : Wmn → Wmn) : (s.modWmn g).freeIndex = s.freeIndex := rfl
@[simp] theorem State.modWmn_pending (g : Wmn → Wmn) : (s.modWmn g).pending = s.pending := rfl

@[simp] theorem State.modSgl_zbc (g : Sgl → Sgl) : (s.modSgl g).zbc = s.zbc := rfl
@[simp] theorem State.modSgl_plt (g : Sgl → Sgl) : (s.modSgl g).plt = s.plt := rfl
@[simp] theorem State.modSgl_sru (g : Sgl → Sgl) : (s.modSgl g).sru = s.sru := rfl
@[simp] theorem State.modSgl_bq (g : Sgl → Sgl) : (s.modSgl g).bq = s.bq := rfl
@[simp] theorem State.modSgl_pst (g : Sgl → Sgl) : (s.modSgl g).pst = s.pst := rfl
@[simp] theorem State.modSgl_settings (g : Sgl → Sgl) : (s.modSgl g).settings = s.settings := rfl
@[simp] theorem State.modSgl_ssq (g : Sgl → Sgl) : (s.modSgl g).ssq = s.ssq := rfl
@[simp] theorem State.modSgl_cpg (g : Sgl → Sgl) : (s.modSgl g).cpg = s.cpg := rfl
@[simp] theorem State.modSgl_wmn (g : Sgl → Sgl) : (s.modSgl g).wmn = s.wmn := rfl
@[simp] theorem State.modSgl_sgl (g : Sgl → Sgl) : (s.modSgl g).sgl = g s.sgl := rfl
@[simp] theorem State.modSgl_rlk (g : Sgl → Sgl) : (s.modSgl g).rlk = s.rlk := rfl
@[simp] theorem State.modSgl_iml (g : Sgl → Sgl) : (s.modSgl g).iml = s.iml := rfl
@[simp] theorem State.modSgl_clockedBeyond (g : Sgl → Sgl) : (s.modSgl g).clockedBeyond = s.clockedBeyond := rfl
@[simp] theorem State.modSgl_freeIndex (g : Sgl → Sgl) : (s.modSgl g).freeIndex = s.freeIndex := rfl
@[simp] theorem State.modSgl_pending (g : Sgl → Sgl) : (s.modSgl g).pending = s.pending := rfl

@[simp] theorem State.modRlk_zbc (g : Rlk → Rlk) : (s.modRlk g).zbc = s.zbc := rfl
@[simp] theorem State.modRlk_plt (g : Rlk → Rlk) : (s.modRlk g).plt = s.plt := rfl
@[simp] theorem State.modRlk_sru (g : Rlk → Rlk) : (s.modRlk g).sru = s.sru := rfl
@[simp] theorem State.modRlk_bq (g : Rlk → Rlk) : (s.modRlk g).bq = s.bq := rfl
@[simp] theorem State.modRlk_pst (g : Rlk → Rlk) : (s.modRlk g).pst = s.pst := rfl
@[simp] theorem State.modRlk_settings (g : Rlk → Rlk) : (s.modRlk g).settings = s.settings := rfl
@[simp] theorem State.modRlk_ssq (g : Rlk → Rlk) : (s.modRlk g).ssq = s.ssq := rfl
@[simp] theorem State.modRlk_cpg (g : Rlk → Rlk) : (s.modRlk g).cpg = s.cpg := rfl
@[simp] theorem State.modRlk_wmn (g : Rlk → Rlk) : (s.modRlk g).wmn = s.wmn := rfl
@[simp] theorem State.modRlk_sgl (g : Rlk → Rlk) : (s.modRlk g).sgl = s.sgl := rfl
@[simp] theorem State.modRlk_rlk (g : Rlk → Rlk) : (s.modRlk g).rlk = g s.rlk := rfl
@[simp] theorem State.modRlk_iml (g : Rlk → Rlk) : (s.modRlk g).iml = s.iml := rfl
@[simp] theorem State.modRlk_clockedBeyond (g : Rlk → Rlk) : (s.modRlk g).clockedBeyond = s.clockedBeyond := rfl
@[simp] theorem State.modRlk_freeIndex (g : Rlk → Rlk) : (s.modRlk g).freeIndex = s.freeIndex := rfl
@[simp] theorem State.modRlk_pending (g : Rlk → Rlk) : (s.modRlk g).pending = s.pending := rfl

@[simp] theorem State.modIml_zbc (g : Iml → Iml) : (s.modIml g).zbc = s.zbc := rfl
@[simp] theorem State.modIml_plt (g : Iml → Iml) : (s.modIml g).plt = s.plt := rfl
@[simp] theorem State.modIml_sru (g : Iml → Iml) : (s.modIml g).sru = s.sru := rfl
@[simp] theorem State.modIml_bq (g : Iml → Iml) : (s.modIml g).bq = s.bq := rfl
@[simp] theorem State.modIml_pst (g : Iml → Iml) : (s.modIml g).pst = s.pst := rfl
@[simp] theorem State.modIml_settings (g : Iml → Iml) : (s.modIml g).settings = s.settings := rfl
@[simp] theorem State.modIml_ssq (g : Iml → Iml) : (s.modIml g).ssq = s.ssq := rfl
@[simp] theorem State.modIml_cpg (g : Iml → Iml) : (s.modIml g).cpg = s.cpg := rfl
@[simp] theorem State.modIml_wmn (g : Iml → Iml) : (s.modIml g).wmn = s.wmn := rfl
@[simp] theorem State.modIml_sgl (g : Iml → Iml) : (s.modIml g).sgl = s.sgl := rfl
@[simp] theorem State.modIml_rlk (g : Iml → Iml) : (s.modIml g).rlk = s.rlk := rfl
@[simp] theorem State.modIml_iml (g : Iml → Iml) : (s.modIml g).iml = g s.iml := rfl
@[simp] theorem State.modIml_clockedBeyond (g : Iml → Iml) : (s.modIml g).clockedBeyond = s.clockedBeyond := rfl
@[simp] theorem State.modIml_freeIndex (g : Iml → Iml) : (s.modIml g).freeIndex = s.freeIndex := rfl
@[simp] theorem State.modIml_pending (g : Iml → Iml) : (s.modIml g).pending = s.pending := rfl

@[simp] theorem State.modFree_zbc (g : Nat → Nat) : (s.modFree g).zbc = s.zbc := rfl
@[simp] theorem State.modFree_plt (g : Nat → Nat) : (s.modFree g).plt = s.plt := rfl
@[simp] theorem State.modFree_sru (g : Nat → Nat) : (s.modFree g).sru = s.sru := rfl
@[simp] theorem State.modFree_bq (g : Nat → Nat) : (s.modFree g).bq = s.bq := rfl
@[simp] theorem State.modFree_pst (g : Nat → Nat) : (s.modFree g).pst = s.pst := rfl
@[simp] theorem State.modFree_settings (g : Nat → Nat) : (s.modFree g).settings = s.settings := rfl
@[simp] theorem State.modFree_ssq (g : Nat → Nat) : (s.modFree g).ssq = s.ssq := rfl
@[simp] theorem State.modFree_cpg (g : Nat → Nat) : (s.modFree g).cpg = s.cpg := rfl
@[simp] theorem State.modFree_wmn (g : Nat → Nat) : (s.modFree g).wmn = s.wmn := rfl
@[simp] theorem State.modFree_sgl (g : Nat → Nat) : (s.modFree g).sgl = s.sgl := rfl
@[simp] theorem State.modFree_rlk (g : Nat → Nat) : (s.modFree g).rlk = s.rlk := rfl
@[simp] theorem State.modFree_iml (g : Nat → Nat) : (s.modFree g).iml = s.iml := rfl
@[simp] theorem State.modFree_clockedBeyond (g : Nat → Nat) : (s.modFree g).clockedBeyond = s.clockedBeyond := rfl
@[simp] theorem State.modFree_freeIndex (g : Nat → Nat) : (s.modFree g).freeIndex = g s.freeIndex := rfl
@[simp] theorem State.modFree_pending (g : Nat → Nat) : (s.modFree g).pending = s.pending := rfl

@[simp] theorem State.withPending_zbc (q : List Instr) : (s.withPending q).zbc = s.zbc := rfl
@[simp] theorem State.withPending_plt (q : List Instr) : (s.withPending q).plt = s.plt := rfl
@[simp] theorem State.withPending_sru (q : List Instr) : (s.withPending q).sru = s.sru := rfl
@[simp] theorem State.withPending_bq (q : List Instr) : (s.withPending q).bq = s.bq := rfl
@[simp] theorem State.withPending_pst (q : List Instr) : (s.withPending q).pst = s.pst := rfl
@[simp] theorem State.withPending_settings (q : List Instr) : (s.withPending q).settings = s.settings := rfl
@[simp] theorem State.withPending_ssq (q : List Instr) : (s.withPending q).ssq = s.ssq := rfl
@[simp] theorem State.withPending_cpg (q : List Instr) : (s.withPending q).cpg = s.cpg := rfl
@[simp] theorem State.withPending_wmn (q : List Instr) : (s.withPending q).wmn = s.wmn := rfl
@[simp] theorem State.withPending_sgl (q : List Instr) : (s.withPending q).sgl = s.sgl := rfl
@[simp] theorem State.withPending_rlk (q : List Instr) : (s.withPending q).rlk = s.rlk := rfl
@[simp] theorem State.withPending_iml (q : List Instr) : (s.withPending q).iml = s.iml := rfl
@[simp] theorem State.withPending_clockedBeyond (q : List Instr) :
    (s.withPending q).clockedBeyond = s.clockedBeyond := rfl
@[simp] theorem State.withPending_freeIndex (q : List Instr) : (s.withPending q).freeIndex = s.freeIndex := rfl
@[simp] theorem State.withPending_pending (q : List Instr) : (s.withPending q).pending = q := rfl

theorem State.withPending_self : s.withPending s.pending = s := rfl

end Sys2Proof.Machine
end

