-- ==== Sys2Proof/Laws/Bounds.lean ====
section
/-! SUPPORT. Every shared operation keeps the node in its bounds (`State.Bounded`): one lemma per operation. -/

namespace Sys2Proof.Machine

variable {s : State}

/-! ### Changes of one block -/

namespace State.Bounded

theorem modZbc {g : Zbc → Zbc} (h : s.Bounded) (hg : (g s.zbc).Bounded) : (s.modZbc g).Bounded := { h with zbc := hg }
theorem modPlt {g : Plt → Plt} (h : s.Bounded) (hg : (g s.plt).Bounded) : (s.modPlt g).Bounded := { h with plt := hg }
theorem modSru {g : Sru → Sru} (h : s.Bounded) : (s.modSru g).Bounded := { h with }
theorem modBq {g : Bq → Bq} (h : s.Bounded) (hg : (g s.bq).Bounded) : (s.modBq g).Bounded := { h with bq := hg }
theorem modPst {g : Pst → Pst} (h : s.Bounded) : (s.modPst g).Bounded := { h with }
theorem modSettings {g : Settings → Settings} (h : s.Bounded) : (s.modSettings g).Bounded := { h with }
theorem modSsq {g : Ssq → Ssq} (h : s.Bounded) (hg : (g s.ssq).Bounded) : (s.modSsq g).Bounded := { h with ssq := hg }
theorem modCpg {g : Cpg → Cpg} (h : s.Bounded) (hg : (g s.cpg).Bounded) : (s.modCpg g).Bounded := { h with cpg := hg }
theorem modWmn {g : Wmn → Wmn} (h : s.Bounded) (hg : (g s.wmn).Bounded) : (s.modWmn g).Bounded := { h with wmn := hg }
theorem modSgl {g : Sgl → Sgl} (h : s.Bounded) (hg : (g s.sgl).Bounded) : (s.modSgl g).Bounded := { h with sgl := hg }
theorem modRlk {g : Rlk → Rlk} (h : s.Bounded) (hg : (g s.rlk).Bounded) : (s.modRlk g).Bounded := { h with rlk := hg }
theorem modIml {g : Iml → Iml} (h : s.Bounded) : (s.modIml g).Bounded := { h with }
theorem modFree {g : Nat → Nat} (h : s.Bounded) : (s.modFree g).Bounded := { h with }

end State.Bounded

/-! ### Reports and flags -/

theorem queueReport_bounded (r : Report) {k : Rlk} (h : k.Bounded) : (queueReport r k).Bounded := by
  obtain ⟨h1, h2, h3, h4⟩ := h
  unfold queueReport
  split
  · exact ⟨by simp; omega, Nat.mod_lt _ (by decide), h3, h4⟩
  · exact ⟨h1, Nat.mod_lt _ (by decide), h3, h4⟩

theorem generate_bounded (r : Report) (h : s.Bounded) : (generate r s).Bounded :=
  h.modRlk (queueReport_bounded r h.rlk)

theorem raise_bounded (f : Flag) (a0 a1 a2 a3 : Byte) (h : s.Bounded) : (raise f a0 a1 a2 a3 s).Bounded :=
  generate_bounded _ (h.modRlk h.rlk)

theorem raiseCount_bounded (f : Flag) (n : Nat) (h : s.Bounded) : (raiseCount f n s).Bounded := raise_bounded _ _ _ _ _ h
theorem raiseSerial_bounded (f : Flag) (n : Nat) (h : s.Bounded) : (raiseSerial f n s).Bounded :=
  raise_bounded _ _ _ _ _ h
theorem raiseWord_bounded (f : Flag) (n : Nat) (h : s.Bounded) : (raiseWord f n s).Bounded := raise_bounded _ _ _ _ _ h
theorem refuse_bounded (t k : Byte) (h : s.Bounded) : (refuse t k s).Bounded := raise_bounded _ _ _ _ _ h

/-! ### Peer Load Table -/

theorem setRow_bounded (id : Nat) (r : Option Row) {p : Plt} (h : p.Bounded)
    (hr : ∀ x, r = some x → x.lapse ≤ 514 * Config.usPerMs) : (setRow id r p).Bounded := by
  obtain ⟨h1, h2, h3⟩ := h
  unfold setRow
  split
  · exact ⟨h1, h2, h3⟩
  · refine ⟨by simpa using h1, fun x hx => ?_, h3⟩
    rcases List.mem_or_eq_of_mem_set hx with hx | hx
    · exact h2 x hx
    · exact hr x hx.symm

theorem clearRows_bounded {p : Plt} (h : p.Bounded) : (clearRows p).Bounded :=
  ⟨by simp [clearRows], fun r hr => by simp [clearRows] at hr, h.2.2⟩

theorem ageRows_bounded (n : Nat) {p : Plt} (h : p.Bounded) : (ageRows n p).Bounded := by
  obtain ⟨h1, h2, h3⟩ := h
  refine ⟨by simpa [ageRows] using h1, fun r hr => ?_, h3⟩
  simp only [ageRows, List.mem_map] at hr
  obtain ⟨o, ho, hr⟩ := hr
  cases o with
  | none => simp at hr
  | some x =>
    simp only [Option.map_some, Option.some.injEq] at hr
    subst hr
    exact le_trans (Nat.sub_le _ _) (h2 x ho)

/-! ### Arbitration starts and the claim -/

theorem choose_bounded (slot : Slot) (h : s.Bounded) : (choose slot s).Bounded := h.modZbc h.zbc

theorem evaluateClaim_bounded (h : s.Bounded) : (evaluateClaim s).Bounded := by
  unfold evaluateClaim
  split
  · exact h
  · split
    · exact h
    · exact choose_bounded _ (h.modZbc h.zbc).modSru

theorem chooseSlot_bounded (h : s.Bounded) : (chooseSlot s).Bounded := by
  unfold chooseSlot
  split
  · split <;> exact choose_bounded _ h
  · exact choose_bounded _ h
  · exact choose_bounded _ h
  · split
    · exact evaluateClaim_bounded h
    · exact h

theorem voidChoice_bounded (h : s.Bounded) : (voidChoice s).Bounded := by
  unfold voidChoice
  split
  · exact h
  · exact (h.modZbc h.zbc).modSru
  · exact h.modZbc h.zbc

theorem keepMoment_bounded (n : Nat) {z : Zbc} (h : z.Bounded) : (keepMoment n z).Bounded := by
  unfold keepMoment; split <;> exact h

theorem callArbitration_bounded (h : s.Bounded) : (callArbitration s).Bounded := by
  unfold callArbitration arbitrate
  split
  · split
    · exact chooseSlot_bounded h
    · have h1 := chooseSlot_bounded (voidChoice_bounded h)
      exact h1.modZbc (keepMoment_bounded _ h1.zbc)
  · exact h

theorem voidClaimChoice_bounded (h : s.Bounded) : (voidClaimChoice s).Bounded := by
  unfold voidClaimChoice
  split
  · exact voidChoice_bounded h
  · exact h

theorem sendStart_bounded (h : s.Bounded) : (sendStart s).Bounded := by
  unfold sendStart
  split
  · exact h
  · dsimp only
    split
    · exact State.Bounded.modSru (h.modZbc h.zbc)
    · exact h.modZbc h.zbc

theorem queueRelease_bounded (h : s.Bounded) : (queueRelease s).Bounded := by
  unfold queueRelease
  split
  · exact h
  · split
    · exact callArbitration_bounded (h.modZbc h.zbc)
    · exact h

theorem releaseOrder_bounded (h : s.Bounded) : (releaseOrder s).Bounded := by
  unfold releaseOrder
  split
  · exact queueRelease_bounded h.modSru
  · exact h

theorem cancelRequest_bounded (h : s.Bounded) : (cancelRequest s).Bounded := by
  unfold cancelRequest
  split
  · exact h.modSru
  · exact (voidClaimChoice_bounded h).modSru
  · exact h.modSru
  · exact releaseOrder_bounded h.modSru
  · exact h.modSru

theorem endVisit_bounded (h : s.Bounded) : (endVisit s).Bounded := (cancelRequest_bounded h).modSru

theorem beginVisit_bounded (h : s.Bounded) : (beginVisit s).Bounded := h.modSru

theorem dropClaim_bounded (h : s.Bounded) : (dropClaim s).Bounded := (voidClaimChoice_bounded h).modSru

/-! ### Time -/

theorem ageTimers_bounded (n : Nat) (h : s.Bounded) : (ageTimers n s).Bounded := by
  have h1 : (s.modZbc fun z => { z with joinTimer := runDown n z.joinTimer, startIn := z.startIn - n }).Bounded :=
    h.modZbc h.zbc
  have h2 := (h1.modPlt (g := ageRows n) (ageRows_bounded n h1.plt)).modSru (g := ageWait n s.waitLimitUs s.bq.hold)
  have h3 := h2.modBq (g := ageBodies n) h.bq
  have h4 := h3.modSsq (g := ageSpots n s.bq.hold) h.ssq
  exact h4.modSgl (g := ageLink n) (by
    show (ageLink n s.sgl).Bounded
    unfold ageLink
    split <;> exact h.sgl)

theorem elapse_bounded (n : Nat) (h : s.Bounded) : (elapse n s).Bounded := by
  unfold elapse
  split
  · exact h
  · split
    · exact sendStart_bounded (ageTimers_bounded n h)
    · exact ageTimers_bounded n h

/-! ### The stage link and the profile -/

theorem sendFrame_bounded (v : Nat) {g : Sgl} (h : g.Bounded) : (sendFrame v g).Bounded :=
  ⟨Nat.mod_lt _ (by decide), h.2⟩

theorem sendSetpoint_bounded {v : Nat} (h : s.Bounded) (hv : v ≤ s.cpg.g) : (sendSetpoint v s).Bounded :=
  (h.modCpg ⟨h.cpg.1, hv, h.cpg.2.2⟩).modSgl (sendFrame_bounded v h.sgl)

theorem leaveActive_bounded {g : Sgl} (h : g.Bounded) : (leaveActive g).Bounded := by
  unfold leaveActive
  split <;> exact h

theorem endFault_bounded {g : Sgl} (h : g.Bounded) : (endFault g).Bounded := by
  unfold endFault
  split <;> exact h

theorem activate_bounded {g : Sgl} (h : g.Bounded) : (activate g).Bounded := ⟨h.1, Nat.zero_le _⟩

theorem judgePulse_bounded (n : Nat) {m : Wmn} (h : m.Bounded) : (judgePulse n m).Bounded := by
  simpa [judgePulse, Wmn.Bounded] using h

theorem cutPulse_bounded {m : Wmn} (h : m.Bounded) : (cutPulse m).Bounded := by
  simpa [cutPulse, Wmn.Bounded] using h

theorem takeSample_bounded (i v : Nat) {m : Wmn} (h : m.Bounded) : (takeSample i v m).Bounded := by
  unfold takeSample
  split <;> exact h

theorem boostedTarget_le (level boost : Nat) : boostedTarget level boost ≤ Config.maxCode := min_le_left _ _

theorem cpgOff_bounded {c : Cpg} (h : c.Bounded) : (cpgOff c).Bounded :=
  ⟨h.1, Nat.zero_le _, fun a ha => by simp [cpgOff] at ha, h.2.2.2⟩

theorem takeSpot_bounded (sched boost level : Nat) {c : Cpg} (h : c.Bounded) : (takeSpot sched boost level c).Bounded :=
  ⟨boostedTarget_le _ _, Nat.zero_le _, fun a ha => by simp [takeSpot] at ha, h.2.2.2⟩

theorem enterAborting_bounded (cause : Cause) (path : AbortPath) {c : Cpg} (h : c.Bounded) :
    (enterAborting cause path c).Bounded := by
  refine ⟨h.1, h.2.1, fun a ha => ?_, h.2.2.2⟩
  simp only [enterAborting, Option.some.injEq] at ha
  subst ha
  exact h.2.1

theorem enterPrestart_bounded (sched boost : Nat) (h : s.Bounded) : (enterPrestart sched boost s).Bounded :=
  sendSetpoint_bounded (((h.modCpg (takeSpot_bounded _ _ _ h.cpg)).modWmn (by rfl)).modSgl (activate_bounded h.sgl))
    (Nat.zero_le _)

theorem standDown_bounded (h : s.Bounded) : (standDown s).Bounded :=
  (h.modCpg (cpgOff_bounded h.cpg)).modSgl (leaveActive_bounded h.sgl)

theorem takeAbort_bounded (cause : Cause) (path : AbortPath) (h : s.Bounded) : (takeAbort cause path s).Bounded := by
  unfold takeAbort
  split
  · split
    · exact (h.modWmn (cutPulse_bounded h.wmn)).modCpg (enterAborting_bounded _ _ h.cpg)
    · exact h.modCpg (enterAborting_bounded _ _ h.cpg)
  · exact h

theorem orderAbort_bounded (cause : Cause) (h : s.Bounded) : (orderAbort cause s).Bounded := takeAbort_bounded _ _ h

/-! ### The Spot Sequencer -/

theorem reportSpot_bounded (i : Nat) (res : SpotResult) (early : Bool) (h : s.Bounded) :
    (reportSpot i res early s).Bounded := by
  unfold reportSpot
  split
  · exact generate_bounded _ h
  · exact h

theorem reportBody_bounded (nowork exited : Bool) (h : s.Bounded) : (reportBody nowork exited s).Bounded := by
  unfold reportBody
  split
  · exact h
  · exact generate_bounded _ h

theorem missBadSchedule_bounded (h : s.Bounded) : (missBadSchedule s).Bounded := by
  have h1 := reportSpot_bounded s.ssq.cursor noCurrentResult false
    (h.modSsq (g := setOutcome s.ssq.cursor .missed .badSchedule) h.ssq)
  exact h1.modSsq h1.ssq

theorem walkPlan_bounded (n : Nat) : ∀ {s : State}, s.Bounded → (walkPlan n s).Bounded := by
  induction n with
  | zero => exact fun h => h
  | succ n ih =>
    intro s h
    unfold walkPlan
    split
    · exact h
    · split
      · exact h
      · exact ih (missBadSchedule_bounded h)

theorem awaitGun_bounded (h : s.Bounded) : (awaitGun s).Bounded := h.modSsq h.ssq

theorem removeHead_bounded {b : Bq} (h : b.Bounded) : (removeHead b).Bounded := by
  obtain ⟨h1, h2, h3⟩ := h
  refine ⟨?_, ?_, h3⟩
  · simp only [removeHead, List.length_tail]; omega
  · simpa [removeHead, List.map_tail] using h2.sublist (List.tail_sublist _)

theorem endBody_bounded (nowork exited : Bool) (h : s.Bounded) : (endBody nowork exited s).Bounded := by
  have h1 := reportBody_bounded nowork exited h
  exact (h1.modBq (removeHead_bounded h1.bq)).modSsq (Nat.zero_le _)

theorem programStart_bounded (h : s.Bounded) : (programStart s).Bounded := by
  unfold programStart
  split
  · exact h
  · exact (generate_bounded _ h).modSsq h.ssq

theorem offerHead_bounded (n : Nat) : ∀ {s : State}, s.Bounded → (offerHead n s).Bounded := by
  induction n with
  | zero => exact fun h => h
  | succ n ih =>
    intro s h
    unfold offerHead
    split
    · exact h
    · rename_i r _ _
      have h1 : (s.modSsq (activeFrom s.pst r)).Bounded := h.modSsq (Nat.zero_le _)
      dsimp only
      split
      · exact ih (endBody_bounded _ _ h1)
      · have h2 := walkPlan_bounded (s.modSsq (activeFrom s.pst r)).ssq.plan.length (programStart_bounded h1)
        split
        · exact awaitGun_bounded h2
        · exact ih (endBody_bounded _ _ h2)

theorem offerQueue_bounded (h : s.Bounded) : (offerQueue s).Bounded := offerHead_bounded _ h

theorem startRevisit_bounded (h : s.Bounded) : (startRevisit s).Bounded := by
  unfold startRevisit
  split
  · exact h
  · exact (generate_bounded _ h).modSsq h.ssq

theorem stepPlan_bounded (h : s.Bounded) : (stepPlan s).Bounded := by
  have h1 := walkPlan_bounded (s.ssq.plan.length - s.ssq.cursor) h
  unfold stepPlan
  dsimp only
  split
  · exact awaitGun_bounded h1
  · split
    · exact offerQueue_bounded (endBody_bounded _ _ h1)
    · split
      · exact awaitGun_bounded (startRevisit_bounded h1)
      · exact awaitGun_bounded h1

theorem afterClose_bounded (h : s.Bounded) : (afterClose s).Bounded := by
  unfold afterClose
  split
  · exact offerQueue_bounded (endBody_bounded _ _ h)
  · split
    · exact stepPlan_bounded (h.modSsq h.ssq)
    · exact stepPlan_bounded h

theorem closeSpot_bounded (h : s.Bounded) : (closeSpot s).Bounded := by
  unfold closeSpot
  split
  · exact h
  · rename_i x _
    have h1 := endVisit_bounded (reportSpot_bounded x.planIdx (x.result.getD noCurrentResult) x.earlyOpen h)
    exact afterClose_bounded ((h1.modSgl (endFault_bounded h1.sgl)).modSsq h1.ssq)

theorem leaveDeferred_bounded (i : Nat) {q : Ssq} (h : q.Bounded) : (leaveDeferred i q).Bounded :=
  le_trans (List.length_filter_le _ _) h

theorem resolveEntry_bounded (i : Nat) (o : Outcome) (c : Cause) {q : Ssq} (h : q.Bounded) :
    (resolveEntry i o c q).Bounded := leaveDeferred_bounded i (q := setOutcome i o c q) h

theorem closeResolved_bounded (o : Outcome) (c : Cause) (h : s.Bounded) : (closeResolved o c s).Bounded := by
  unfold closeResolved
  split
  · exact h
  · exact closeSpot_bounded (h.modSsq (resolveEntry_bounded _ _ _ h.ssq))

theorem deferSpot_bounded (h : s.Bounded) : (deferSpot s).Bounded := by
  unfold deferSpot
  split
  · exact h
  · split
    · rename_i hlt
      exact closeSpot_bounded (h.modSsq (by show List.length _ ≤ _; simp; omega))
    · exact closeResolved_bounded _ _ h

theorem claimTimedOut_bounded (h : s.Bounded) : (claimTimedOut s).Bounded := by
  unfold claimTimedOut
  split
  · split
    · exact deferSpot_bounded h
    · exact closeResolved_bounded _ _ h
  · exact h

theorem timeOutClaim_bounded (h : s.Bounded) : (timeOutClaim s).Bounded := claimTimedOut_bounded (dropClaim_bounded h)

theorem raiseRequest_bounded (h : s.Bounded) : (raiseRequest s).Bounded := by
  unfold raiseRequest
  split
  · split
    · exact h
    · split
      · exact closeResolved_bounded _ _ h
      · exact callArbitration_bounded h.modSru
  · exact h

theorem enterFiring_bounded (h : s.Bounded) : (enterFiring s).Bounded := by
  unfold enterFiring
  split
  · exact h
  · split
    · exact h
    · exact enterPrestart_bounded _ _ (h.modSsq h.ssq)

theorem fireIfReady_bounded (h : s.Bounded) : (fireIfReady s).Bounded := by
  unfold fireIfReady
  split
  · exact enterFiring_bounded h
  · exact h

theorem takeGrant_bounded (h : s.Bounded) : (takeGrant s).Bounded := by
  unfold takeGrant
  split
  · exact releaseOrder_bounded h
  · exact fireIfReady_bounded h

theorem enterHold_bounded (n : Nat) (h : s.Bounded) : (enterHold n s).Bounded := by
  have h1 : (s.modSsq fun q => { q with state := .hold, inHand := q.inHand.map fun h =>
    { h with holdLeft := n * Config.usPerMs } }).Bounded := h.modSsq h.ssq
  unfold enterHold
  dsimp only
  split
  · split
    · exact closeSpot_bounded h1
    · exact h1
  · exact h1

theorem currentEnd_bounded (h : s.Bounded) : (currentEnd s).Bounded := by
  unfold currentEnd
  split
  · exact standDown_bounded (releaseOrder_bounded h)
  · have h1 := releaseOrder_bounded h
    exact enterHold_bounded _ (standDown_bounded (endVisit_bounded (h1.modSsq (resolveEntry_bounded _ _ _ h1.ssq))))

theorem giveUp_bounded (h : s.Bounded) : (giveUp s).Bounded :=
  closeResolved_bounded _ _ (standDown_bounded (releaseOrder_bounded h))

theorem endPrestart_bounded (c : Cause) (h : s.Bounded) : (endPrestart c s).Bounded :=
  closeResolved_bounded _ _ (standDown_bounded h)

theorem slotLost_bounded (h : s.Bounded) : (slotLost s).Bounded := by
  unfold slotLost
  split
  · exact endPrestart_bounded _ h
  · exact h
  · have h1 := takeAbort_bounded .stage .cut h
    exact h1.modCpg h1.cpg
  · exact h

theorem holdSet_bounded (h : s.Bounded) : (holdSet s).Bounded := by
  unfold holdSet
  split
  · split
    · split
      · exact closeResolved_bounded _ _ h
      · exact releaseOrder_bounded h
    · exact h
  · split
    · split
      · exact endPrestart_bounded _ h
      · have h1 := releaseOrder_bounded (standDown_bounded h)
        exact h1.modSsq h1.ssq
    · exact orderAbort_bounded _ h
  · exact h
  · exact h
  · exact h

theorem holdCleared_bounded (h : s.Bounded) : (holdCleared s).Bounded := by
  unfold holdCleared
  split
  · split
    · exact callArbitration_bounded h
    · dsimp only
      split
      · exact callArbitration_bounded (cancelRequest_bounded (h.modSsq h.ssq))
      · exact callArbitration_bounded (h.modSsq h.ssq)
  · exact callArbitration_bounded h

theorem missOthers_bounded (keep : Option Nat) {q : Ssq} (h : q.Bounded) : (missOthers keep q).Bounded :=
  le_trans (List.length_filter_le _ _) h

theorem endActive_bounded (h : s.Bounded) : (endActive s).Bounded := by
  have h1 := h.modSsq (g := missOthers (s.ssq.inHand.map SpotInHand.planIdx)) (missOthers_bounded _ h.ssq)
  unfold endActive
  split
  · exact h
  · dsimp only
    split
    · exact h
    · exact offerQueue_bounded (endBody_bounded _ _ h1)
    · exact closeResolved_bounded _ _ h1
    · split
      · exact endPrestart_bounded _ h1
      · exact orderAbort_bounded _ h1
    · exact h1

theorem acceptGun_bounded (i : Nat) (h : s.Bounded) : (acceptGun i s).Bounded := by
  have h1 : (beginVisit (s.modSsq (acceptSpot i (s.planSchedule i).squeeze))).Bounded :=
    beginVisit_bounded (h.modSsq h.ssq)
  unfold acceptGun
  dsimp only
  split
  · exact raiseRequest_bounded h1
  · exact h1

theorem skipEntries_bounded (n : Nat) : ∀ {s : State}, s.Bounded → (skipEntries n s).Bounded := by
  induction n with
  | zero => exact fun h => h
  | succ n ih =>
    intro s h
    have h1 := reportSpot_bounded s.ssq.cursor noCurrentResult false
      (h.modSsq (g := setOutcome s.ssq.cursor .missed .skipped) h.ssq)
    exact ih (h1.modSsq h1.ssq)

theorem skipAhead_bounded (i : Nat) (h : s.Bounded) : (skipAhead i s).Bounded := by
  have h1 := skipEntries_bounded (i - s.ssq.cursor) h
  unfold skipAhead
  dsimp only
  split
  · exact acceptGun_bounded i h1
  · exact stepPlan_bounded (missBadSchedule_bounded h1)

theorem gunClosedMain_bounded (i : Nat) (e : PlanEntry) (spot : Nat) (h : s.Bounded) :
    (gunClosedMain i e spot s).Bounded := by
  unfold gunClosedMain
  split
  · split
    · exact acceptGun_bounded i (h.modSsq h.ssq)
    · exact acceptGun_bounded i h
  · split
    · exact skipAhead_bounded i h
    · exact raiseWord_bounded _ _ h

theorem gunClosed_bounded (spot : Nat) (h : s.Bounded) : (gunClosed spot s).Bounded := by
  unfold gunClosed
  split
  · exact raiseWord_bounded _ _ h
  · split
    · exact raiseWord_bounded _ _ h
    · split
      · exact raiseWord_bounded _ _ h
      · exact gunClosedMain_bounded _ _ _ h
      · split
        · exact acceptGun_bounded _ h
        · exact raiseWord_bounded _ _ h

theorem gunOpened_bounded (h : s.Bounded) : (gunOpened s).Bounded := by
  unfold gunOpened
  split
  · exact h
  · exact h
  · have h1 := endVisit_bounded h
    exact h1.modSsq h1.ssq
  · split
    · exact endPrestart_bounded _ (h.modSsq h.ssq)
    · exact orderAbort_bounded _ (h.modSsq h.ssq)
  · exact closeSpot_bounded (h.modSsq h.ssq)

theorem setWeldCount_bounded {w : Nat} (hw : w ≤ 65535) (h : s.Bounded) : (setWeldCount w s).Bounded := by
  have h1 : (s.modCpg fun c => { c with w := w }).Bounded := h.modCpg ⟨h.cpg.1, h.cpg.2.1, h.cpg.2.2.1, hw⟩
  unfold setWeldCount
  dsimp only
  split
  · exact callArbitration_bounded h1
  · exact h1

theorem raiseLate_bounded (h : s.Bounded) : (raiseLate s).Bounded := by
  unfold raiseLate
  split
  · exact h
  · have h1 := raiseWord_bounded .robotLate (PlanEntry.spotId ‹PlanEntry›) h
    exact h1.modSsq h1.ssq

end Sys2Proof.Machine
end

