-- ==== Sys2Proof/Laws/BoundsBus.lean ====
section
/-! SUPPORT. The updates of the stage link, the frames of the zone bus, the image load and the robot link keep the node
in its bounds. -/

namespace Sys2Proof.Machine

variable {s : State}

/-! ### Setpoints lie in 0..G (R125) -/

theorem ceilDiv_eighth_le (d : Nat) : ceilDiv d 8 ≤ d := by unfold ceilDiv; omega

theorem upslopeSetpoint_le {shape g n k prev : Nat} (hk : k ≤ n) (hp : prev ≤ g) :
    upslopeSetpoint shape g n k prev ≤ g := by
  unfold upslopeSetpoint
  split
  · exact le_rfl
  · split
    · exact Nat.div_le_of_le_mul (by rw [Nat.mul_comm g k]; exact Nat.mul_le_mul_right g hk)
    · have := ceilDiv_eighth_le (g - prev); omega

theorem downslopeSetpoint_le (g endPercent n k : Nat) : downslopeSetpoint g endPercent n k ≤ g := Nat.sub_le _ _

theorem rampSetpoint_le (s0 k : Nat) : rampSetpoint s0 k ≤ s0 := Nat.sub_le _ _

/-! ### The profile -/

theorem startPulseRecord_bounded (i g : Nat) (c : Schedule) {m : Wmn} (h : m.Bounded) :
    (startPulseRecord i g c m).Bounded := h

theorem beginPulse_bounded (h : s.Bounded) : (beginPulse s).Bounded := by
  have h1 : (s.modCpg fun c => { c with phase := .pulse, count := 0, pulseIdx := c.pulseIdx + 1 }).Bounded :=
    h.modCpg h.cpg
  exact sendSetpoint_bounded (h1.modWmn h.wmn) le_rfl

theorem beginCool_bounded (h : s.Bounded) : (beginCool s).Bounded := by
  unfold beginCool
  split
  · exact beginPulse_bounded h
  · exact sendSetpoint_bounded (h.modCpg h.cpg) (Nat.zero_le _)

theorem finishCurrent_bounded (h : s.Bounded) : (finishCurrent s).Bounded :=
  currentEnd_bounded (sendSetpoint_bounded h (Nat.zero_le _))

theorem downslopeUpdate_bounded (h : s.Bounded) : (downslopeUpdate s).Bounded := by
  unfold downslopeUpdate
  dsimp only
  split
  · exact sendSetpoint_bounded h (downslopeSetpoint_le _ _ _ _)
  · exact finishCurrent_bounded h

theorem beginDownslope_bounded (h : s.Bounded) : (beginDownslope s).Bounded := downslopeUpdate_bounded (h.modCpg h.cpg)

theorem upslopeUpdate_bounded (h : s.Bounded) : (upslopeUpdate s).Bounded := by
  unfold upslopeUpdate
  dsimp only
  split
  · rename_i hlt
    exact sendSetpoint_bounded h (upslopeSetpoint_le hlt h.cpg.2.1)
  · exact beginPulse_bounded h

theorem beginProfile_bounded (h : s.Bounded) : (beginProfile s).Bounded := upslopeUpdate_bounded (h.modCpg h.cpg)

theorem abortUpdate_bounded (h : s.Bounded) : (abortUpdate s).Bounded := by
  unfold abortUpdate
  split
  · exact finishCurrent_bounded h
  · rename_i a ha
    split
    · exact finishCurrent_bounded h
    · split
      · exact sendSetpoint_bounded h (le_trans (rampSetpoint_le _ _) (h.cpg.2.2.1 a ha))
      · exact finishCurrent_bounded h

theorem countSpot_bounded (h : s.Bounded) : (countSpot s).Bounded := by
  have h1 : (setWeldCount (min 65535 (s.cpg.w + 1)) s).Bounded := setWeldCount_bounded (min_le_left _ _) h
  unfold countSpot
  dsimp only
  split
  · exact raiseWord_bounded _ _ h1
  · exact h1

theorem beginCurrent_bounded (h : s.Bounded) : (beginCurrent s).Bounded := by
  have h1 := countSpot_bounded h
  exact beginProfile_bounded (h1.modCpg h1.cpg)

theorem prestartUpdate_bounded (h : s.Bounded) : (prestartUpdate s).Bounded := by
  unfold prestartUpdate
  split
  · exact giveUp_bounded (sendSetpoint_bounded h (Nat.zero_le _))
  · split
    · exact beginCurrent_bounded h
    · exact sendSetpoint_bounded h (Nat.zero_le _)

theorem judge_bounded (h : s.Bounded) : (judge s).Bounded := h.modWmn (judgePulse_bounded _ h.wmn)

theorem afterPulse_bounded (r : Worst) (h : s.Bounded) : (afterPulse r s).Bounded := by
  unfold afterPulse
  dsimp only
  split
  · exact beginCool_bounded h
  · split
    · exact beginCool_bounded (h.modCpg h.cpg)
    · exact beginDownslope_bounded h

theorem pulseEnd_bounded (h : s.Bounded) : (pulseEnd s).Bounded := by
  have h1 := judge_bounded h
  unfold pulseEnd
  dsimp only
  split
  · exact abortUpdate_bounded (h1.modCpg (enterAborting_bounded _ _ h1.cpg))
  · exact afterPulse_bounded _ h1

theorem pulseUpdate_bounded (h : s.Bounded) : (pulseUpdate s).Bounded := by
  unfold pulseUpdate
  split
  · exact sendSetpoint_bounded (h.modWmn h.wmn) le_rfl
  · exact pulseEnd_bounded h

theorem coolUpdate_bounded (h : s.Bounded) : (coolUpdate s).Bounded := by
  unfold coolUpdate
  split
  · exact sendSetpoint_bounded h (Nat.zero_le _)
  · exact beginPulse_bounded h

theorem profileUpdate_bounded (h : s.Bounded) : (profileUpdate s).Bounded := by
  unfold profileUpdate
  split
  · exact h
  · exact prestartUpdate_bounded h
  · exact upslopeUpdate_bounded h
  · exact pulseUpdate_bounded h
  · exact coolUpdate_bounded h
  · exact downslopeUpdate_bounded h
  · exact abortUpdate_bounded h

theorem linkThenResult_bounded (h : s.Bounded) : (linkThenResult s).Bounded :=
  judge_bounded (h.modCpg (enterAborting_bounded _ _ h.cpg))

theorem resultThenLink_bounded (h : s.Bounded) : (resultThenLink s).Bounded := by
  have h1 := judge_bounded h
  unfold resultThenLink
  dsimp only
  split <;> exact h1.modCpg (enterAborting_bounded _ _ h1.cpg)

theorem linkAbort_bounded (h : s.Bounded) : (linkAbort s).Bounded := by
  unfold linkAbort
  split
  · dsimp only
    split
    · exact linkThenResult_bounded h.modFree
    · exact resultThenLink_bounded h.modFree
  · exact takeAbort_bounded _ _ h

theorem enterFault_bounded (h : s.Bounded) : (enterFault s).Bounded := by
  have h1 := sendSetpoint_bounded h (Nat.zero_le s.cpg.g)
  exact h1.modSgl h1.sgl

theorem linkFault_bounded (h : s.Bounded) : (linkFault s).Bounded := by
  have h1 := currentEnd_bounded (enterFault_bounded (linkAbort_bounded h))
  unfold linkFault
  split
  · exact enterFault_bounded h
  · exact giveUp_bounded (enterFault_bounded h)
  · exact h1
  · exact h1
  · exact h1
  · exact h1
  · exact currentEnd_bounded (enterFault_bounded h)

theorem countMissing_bounded {g : Sgl} (h : g.Bounded) : (countMissing g).Bounded := by
  unfold countMissing
  split
  · exact h
  · exact ⟨h.1, min_le_left _ _⟩

theorem updateStage_bounded (h : s.Bounded) : (updateStage s).Bounded := by
  unfold updateStage
  split
  · exact h
  · exact h.modSgl (sendFrame_bounded 0 h.sgl)
  · have h1 : (s.modSgl countMissing).Bounded := h.modSgl (countMissing_bounded h.sgl)
    dsimp only
    split
    · exact linkFault_bounded h1
    · exact profileUpdate_bounded h1

theorem receiveSample_bounded (bytes : List Byte) (h : s.Bounded) : (receiveSample bytes s).Bounded := by
  have h1 : (s.modSgl (acceptAnswer (sampleStatus bytes))).Bounded := h.modSgl ⟨h.sgl.1, Nat.zero_le _⟩
  have h2 : (if s.cpg.phase = .pulse then (s.modSgl (acceptAnswer (sampleStatus bytes))).modWmn
      (takeSample (sampleCurrent bytes) (sampleVoltage bytes)) else
      s.modSgl (acceptAnswer (sampleStatus bytes))).Bounded := by
    split
    · exact h1.modWmn (takeSample_bounded _ _ h1.wmn)
    · exact h1
  unfold receiveSample
  split
  · dsimp only
    split
    · exact orderAbort_bounded _ h2
    · exact h2
  · exact h

/-! ### Applied frames -/

theorem pitchSample_range {us n : Nat} (h : pitchSample us = some n) : 1 ≤ n ∧ n ≤ 65535 := by
  unfold pitchSample at h
  dsimp only at h
  split at h
  · cases h
  · simp only [Option.some.injEq] at h
    omega

theorem enterSample_bounded {n : Nat} (avg : Nat) (hn : 1 ≤ n ∧ n ≤ 65535) {b : Bq} (h : b.Bounded) :
    (enterSample n avg b).Bounded := by
  obtain ⟨h1, h2, h3, h4⟩ := h
  refine ⟨h1, h2, by simp [enterSample, h3], fun m hm => ?_⟩
  rcases List.mem_cons.mp hm with rfl | hm
  · exact hn
  · exact h4 m (List.dropLast_subset _ hm)

theorem pitchEvent_bounded (avg : Nat) {b : Bq} (h : b.Bounded) : (pitchEvent avg b).Bounded := by
  unfold pitchEvent
  dsimp only
  split
  · exact h
  · split
    · exact h
    · rename_i hs
      exact enterSample_bounded avg (pitchSample_range hs) h

theorem testSequence_bounded (n : Nat) (h : s.Bounded) : (testSequence n s).Bounded := by
  have h1 : (match s.bq.lastSeq with
    | none => s
    | some l => if n = (l + 1) % 256 then s else raise .bodyGap (byte ((l + 1) % 256)) (byte n) 0 0 s).Bounded := by
    split
    · exact h
    · split
      · exact h
      · exact raise_bounded _ _ _ _ _ h
  exact State.Bounded.modBq (g := fun b => { b with lastSeq := some n }) h1 h1.bq

theorem testSequence_queue (n : Nat) : (testSequence n s).bq.queue = s.bq.queue := by
  unfold testSequence
  dsimp only [State.modBq_bq]
  split
  · rfl
  · split <;> rfl

theorem pitchEvent_queue (avg : Nat) (b : Bq) : (pitchEvent avg b).queue = b.queue := by
  unfold pitchEvent
  dsimp only
  split
  · rfl
  · split <;> rfl

theorem appendBody_bounded {serial : Nat} (style : Nat) (options : BitVec 8) (zoneSeq : Nat) {b : Bq} (h : b.Bounded)
    (hl : b.queue.length < Config.queueMax) (hq : queued b serial = false) :
    (appendBody serial style options zoneSeq b).Bounded := by
  obtain ⟨h1, h2, h3⟩ := h
  refine ⟨by simp [appendBody]; omega, ?_, h3⟩
  simp only [appendBody, List.map_append, List.map_cons, List.map_nil]
  refine h2.append (List.nodup_singleton _) ?_
  simp only [List.disjoint_singleton]
  intro hm
  obtain ⟨r, hr, rfl⟩ := List.mem_map.mp hm
  simp only [queued, List.any_eq_false, decide_eq_true_eq] at hq
  exact hq r hr rfl

theorem admitBody_bounded {serial : Nat} (style : Nat) (options : BitVec 8) (zoneSeq : Nat) (h : s.Bounded)
    (hq : queued s.bq serial = false) : (admitBody serial style options zoneSeq s).Bounded := by
  unfold admitBody
  split
  · rename_i hl
    have h1 : (s.modBq (appendBody serial style options zoneSeq)).Bounded :=
      h.modBq (appendBody_bounded style options zoneSeq h.bq hl hq)
    dsimp only
    split
    · exact offerQueue_bounded h1
    · exact h1
  · exact raiseSerial_bounded _ _ h

theorem applyBody_bounded (serial style : Nat) (options : BitVec 8) (zoneSeq : Nat) (h : s.Bounded) :
    (applyBody serial style options zoneSeq s).Bounded := by
  unfold applyBody
  split
  · exact raiseSerial_bounded _ _ h
  · rename_i hq
    have h1 := testSequence_bounded zoneSeq h
    refine admitBody_bounded _ _ _ (h1.modBq (pitchEvent_bounded _ h1.bq)) ?_
    simp only [queued, State.modBq_bq, pitchEvent_queue, testSequence_queue]
    simpa [queued] using hq

theorem takeHeadExit_bounded {b : Bq} (h : b.Bounded) : (takeHeadExit b).Bounded := by
  unfold takeHeadExit
  split
  · exact h
  · rename_i r t hq
    obtain ⟨h1, h2, h3⟩ := h
    rw [hq] at h1 h2
    exact ⟨h1, h2, h3⟩

theorem removeQueued_bounded (serial : Nat) {b : Bq} (h : b.Bounded) : (removeQueued serial b).Bounded := by
  unfold removeQueued
  split
  · exact h
  · rename_i r t hq
    obtain ⟨h1, h2, h3⟩ := h
    rw [hq] at h1 h2
    have hs : (r :: t.eraseP fun x => decide (x.serial = serial)).Sublist (r :: t) :=
      (List.eraseP_sublist).cons_cons _
    exact ⟨le_trans hs.length_le h1, h2.sublist (hs.map _), h3⟩

theorem applyExit_bounded (serial : Nat) (h : s.Bounded) : (applyExit serial s).Bounded := by
  unfold applyExit
  split
  · exact h
  · split
    · split
      · exact h
      · exact endActive_bounded (h.modBq (takeHeadExit_bounded h.bq))
    · split
      · exact h
      · exact generate_bounded _ (h.modBq (removeQueued_bounded _ h.bq))

theorem holdCause_bounded (code : Nat) (h : s.Bounded) : (holdCause code s).Bounded := raise_bounded _ _ _ _ _ h

theorem applyHalt_bounded (seconds : Nat) (h : s.Bounded) : (applyHalt seconds s).Bounded := by
  have h1 : (s.modBq fun b => { b with hold := true, holdTimer := haltTimer seconds }).Bounded := h.modBq h.bq
  unfold applyHalt
  dsimp only
  split
  · exact h1
  · exact holdSet_bounded (holdCause_bounded 1 h1)

theorem clearHold_bounded (code : Nat) (h : s.Bounded) : (clearHold code s).Bounded :=
  holdCleared_bounded (holdCause_bounded code (h.modBq h.bq))

theorem applyResume_bounded (h : s.Bounded) : (applyResume s).Bounded := by
  unfold applyResume
  split
  · exact clearHold_bounded 2 h
  · exact h

theorem clampNat_range (n : Nat) : 50 ≤ clampNat 50 100 n ∧ clampNat 50 100 n ≤ 100 := by
  unfold clampNat
  split
  · omega
  · split <;> omega

theorem applyDerate_bounded (feeder percent : Nat) (h : s.Bounded) : (applyDerate feeder percent s).Bounded := by
  unfold applyDerate
  split
  · exact h.modPlt ⟨h.plt.1, h.plt.2.1, clampNat_range percent⟩
  · exact h

theorem applyRelease_bounded (id feeder spotId : Nat) {p : Plt} (h : p.Bounded) :
    (applyRelease id feeder spotId p).Bounded := by
  unfold applyRelease
  split
  · exact h
  · split
    · exact setRow_bounded _ _ h (fun x hx => by cases hx)
    · exact h

theorem grantClaim_bounded (h : s.Bounded) : (grantClaim s).Bounded := by
  unfold grantClaim
  split
  · dsimp only
    split
    · exact releaseOrder_bounded h.modSru
    · exact takeGrant_bounded h.modSru
  · exact h

theorem rowOfClaim_lapse_le {feeder load lapse zoneSeq spotId prec : Nat} {own : Bool} (hl : lapse ≤ 255) :
    (rowOfClaim feeder load lapse zoneSeq spotId prec own).lapse ≤ 514 * Config.usPerMs := by
  simp only [rowOfClaim, Config.lapseUnitMs, Config.graceMs]
  refine Nat.mul_le_mul_right _ ?_
  split <;> omega

theorem applyFrame_bounded (own : Bool) (f : Frame) (h : s.Bounded) : (applyFrame own f s).Bounded := by
  unfold applyFrame
  dsimp only
  split
  · exact applyHalt_bounded _ h
  · exact applyResume_bounded h
  · exact applyBody_bounded _ _ _ _ h
  · exact applyExit_bounded _ h
  · exact applyDerate_bounded _ _ h
  · rename_i feeder load lapse zoneSeq spotId _
    have h1 : (s.modPlt (setRow f.arb.sender.toNat (some (rowOfClaim feeder.toNat load.toNat lapse.toNat
        zoneSeq.toNat spotId.toNat f.arb.prec.toNat own)))).Bounded := by
      refine h.modPlt (setRow_bounded _ _ h.plt fun x hx => ?_)
      simp only [Option.some.injEq] at hx
      subst hx
      exact rowOfClaim_lapse_le (by omega)
    split
    · exact grantClaim_bounded h1
    · exact h1
  · exact h.modPlt (applyRelease_bounded _ _ _ h.plt)
  · exact h

/-! ### The zone bus -/

theorem enterJoining_bounded (h : s.Bounded) : (enterJoining s).Bounded := by
  have h1 := voidClaimChoice_bounded h
  exact (h1.modPlt (clearRows_bounded h1.plt)).modZbc (Nat.zero_le _)

theorem enterSilent_bounded (kind : Nat) (h : s.Bounded) : (enterSilent kind s).Bounded :=
  raiseCount_bounded _ _ (h.modZbc h.zbc)

theorem countFailure_bounded (kind : Nat) (h : s.Bounded) : (countFailure kind s).Bounded := by
  have h1 : (s.modZbc fun z => { z with failures := min Config.silentAfter (z.failures + 1) }).Bounded :=
    h.modZbc (min_le_left _ _)
  unfold countFailure
  dsimp only
  split
  · exact enterSilent_bounded _ h1
  · exact h1

theorem slotAfterFailure_bounded (slot : Slot) {z : Zbc} (h : z.Bounded) : (slotAfterFailure slot z).Bounded := by
  unfold slotAfterFailure
  split
  · exact h
  · split <;> exact h
  · exact h

theorem offerFailed_bounded (h : s.Bounded) : (offerFailed s).Bounded := by
  unfold offerFailed
  split
  · dsimp only
    split
    · exact timeOutClaim_bounded (State.Bounded.modSru h.modSru)
    · split <;> exact State.Bounded.modSru h.modSru
  · exact h

theorem reportLoss_bounded (h : s.Bounded) : (reportLoss s).Bounded := by
  unfold reportLoss
  split
  · exact h
  · rename_i slot _
    have h1 : (s.modZbc (slotAfterFailure slot)).Bounded := h.modZbc (slotAfterFailure_bounded slot h.zbc)
    dsimp only
    split
    · exact offerFailed_bounded h1
    · exact h1

theorem failAttempt_bounded (slot : Slot) (kind : Nat) (h : s.Bounded) : (failAttempt slot kind s).Bounded := by
  have h1 : (s.modZbc (slotAfterFailure slot)).Bounded := h.modZbc (slotAfterFailure_bounded slot h.zbc)
  unfold failAttempt
  dsimp only
  refine countFailure_bounded _ ?_
  split
  · exact offerFailed_bounded h1
  · exact h1

theorem reportCompletion_bounded (slot : Slot) (h : s.Bounded) : (reportCompletion slot s).Bounded := by
  unfold reportCompletion
  split
  · exact h
  · split
    · exact h.modSru
    · exact h
  · exact h.modRlk h.rlk

theorem completeAttempt_bounded (slot : Slot) (f : Frame) (receipt : Bool) (h : s.Bounded) :
    (completeAttempt slot f receipt s).Bounded := by
  have h1 : (s.modZbc fun z => { slotAfterCompletion slot z with failures := 0 }).Bounded := h.modZbc (Nat.zero_le _)
  have h2 : (if frameValid f then applyFrame true f (s.modZbc fun z => { slotAfterCompletion slot z with failures := 0 })
      else s.modZbc fun z => { slotAfterCompletion slot z with failures := 0 }).Bounded := by
    split
    · exact applyFrame_bounded _ _ h1
    · exact h1
  unfold completeAttempt
  dsimp only
  refine reportCompletion_bounded _ ?_
  split
  · exact h2
  · exact raiseCount_bounded _ _ h2

theorem takeFrame_bounded (told : Bool) (f : Frame) (h : s.Bounded) : (takeFrame told f s).Bounded := by
  unfold takeFrame
  split
  · exact h
  · split
    · split
      · exact h
      · exact raiseCount_bounded _ _ h
    · exact applyFrame_bounded _ _ h

theorem endFrame_bounded (d : Drive) (h : s.Bounded) : (endFrame d s).Bounded := h.modZbc h.zbc

theorem receiveFrame_bounded (f : Frame) (h : s.Bounded) : (receiveFrame f s).Bounded := by
  have h1 := sendStart_bounded h
  unfold receiveFrame
  split
  · dsimp only
    split
    · split
      · exact completeAttempt_bounded _ _ _ h1
      · exact reportLoss_bounded (takeFrame_bounded _ _ (endFrame_bounded _ h1))
    · exact takeFrame_bounded _ _ (endFrame_bounded _ h1)
  · exact h

theorem discardFrame_bounded (d : Drive) (h : s.Bounded) : (discardFrame d s).Bounded := by
  unfold discardFrame
  split
  · exact reportLoss_bounded (endFrame_bounded _ (sendStart_bounded h))
  · exact h

theorem idlePoint_bounded (h : s.Bounded) : (idlePoint s).Bounded := by
  unfold idlePoint
  split
  · exact callArbitration_bounded (h.modZbc h.zbc)
  · exact h

theorem startBitSeen_bounded (h : s.Bounded) : (startBitSeen s).Bounded := by
  unfold startBitSeen
  split
  · have h1 := voidChoice_bounded h
    exact h1.modZbc h1.zbc
  · exact h

theorem bitErrorSeen_bounded (heard : Option ArbField) (h : s.Bounded) : (bitErrorSeen heard s).Bounded := by
  unfold bitErrorSeen
  dsimp only
  split
  · exact h
  · rename_i slot f _
    have h1 := endFrame_bounded .rejectSlot (failAttempt_bounded slot (kindCode f.body) (sendStart_bounded h))
    split
    · have h2 := raiseCount_bounded .idClash (kindCode f.body) h1
      exact h2.modZbc h2.zbc
    · exact h1

theorem ownRejected_bounded (h : s.Bounded) : (ownRejected s).Bounded := by
  unfold ownRejected
  dsimp only
  split
  · exact h
  · exact failAttempt_bounded _ _ (sendStart_bounded h)

theorem ownCompleted_bounded (receipt : Bool) (h : s.Bounded) : (ownCompleted receipt s).Bounded := by
  unfold ownCompleted
  dsimp only
  split
  · exact h
  · exact completeAttempt_bounded _ _ _ (sendStart_bounded h)

theorem joinDone_bounded (h : s.Bounded) : (joinDone s).Bounded :=
  callArbitration_bounded (raiseCount_bounded _ _ (h.modZbc h.zbc))

theorem cancelRelease_bounded (h : s.Bounded) : (cancelRelease s).Bounded := by
  unfold cancelRelease
  split
  · exact h.modZbc h.zbc
  · have h1 : (if s.zbc.chosen = some .release then voidChoice s else s).Bounded := by
      split
      · exact voidChoice_bounded h
      · exact h
    exact h1.modZbc h1.zbc

theorem ownRowLapsed_bounded (h : s.Bounded) : (ownRowLapsed s).Bounded := by
  unfold ownRowLapsed
  split
  · exact (cancelRelease_bounded h).modSru
  · exact slotLost_bounded h.modSru
  · exact h
  · exact h
  · exact h

theorem lapseRow_bounded (id : Nat) (h : s.Bounded) : (lapseRow id s).Bounded := by
  have h1 : (s.modPlt (setRow id none)).Bounded := h.modPlt (setRow_bounded _ _ h.plt fun x hx => by cases hx)
  unfold lapseRow
  dsimp only
  refine callArbitration_bounded ?_
  split
  · exact ownRowLapsed_bounded h1
  · exact h1

/-! ### The image load -/

theorem Plt.reset_bounded : Plt.reset.Bounded :=
  ⟨by decide, fun r hr => by simp [Plt.reset] at hr, by decide, by decide⟩

theorem Bq.reset_bounded : Bq.reset.Bounded := ⟨by decide, by decide, by decide, by decide⟩

theorem Cpg.reset_bounded : Cpg.reset.Bounded :=
  ⟨by decide, by decide, fun a ha => by simp [Cpg.reset] at ha, by decide⟩

theorem Wmn.reset_bounded : Wmn.reset.Bounded := by show List.length _ = _; decide

theorem Sgl.reset_bounded : Sgl.reset.Bounded := ⟨by decide, by decide⟩

theorem Rlk.reset_bounded : Rlk.reset.Bounded := ⟨by decide, by decide, by decide, by decide⟩

theorem restartNode_bounded : (restartNode s).Bounded where
  zbc := Nat.zero_le _
  plt := Plt.reset_bounded
  bq := Bq.reset_bounded
  ssq := Nat.zero_le _
  cpg := Cpg.reset_bounded
  wmn := Wmn.reset_bounded
  sgl := Sgl.reset_bounded
  rlk := Rlk.reset_bounded

theorem endBad_bounded (reason : LoadReason) (item : Nat) (h : s.Bounded) : (endBad reason item s).Bounded :=
  raise_bounded _ _ _ _ _ ((h.modIml).modZbc h.zbc)

theorem testLength_bounded (length records : Nat) (h : s.Bounded) : (testLength length records s).Bounded := by
  unfold testLength
  split
  · split
    · exact h.modIml
    · exact endBad_bounded _ _ h.modIml
  · exact h

theorem takeBlock_bounded (bytes : List Byte) (h : s.Bounded) : (takeBlock bytes s).Bounded := by
  unfold takeBlock
  split
  · exact h.modIml
  · exact h

theorem completeRead_bounded (bytes : List Byte) (h : s.Bounded) : (completeRead bytes s).Bounded := by
  unfold completeRead
  split
  · exact h.modIml
  · exact h

theorem byteAt_le (bs : List Byte) (i : Nat) : byteAt bs i ≤ 255 := by unfold byteAt; omega

theorem wordAt_le (bs : List Byte) (i : Nat) : wordAt bs i ≤ 65535 := by
  have h1 := byteAt_le bs i
  have h2 := byteAt_le bs (i + 1)
  unfold wordAt
  omega

/-- R183: an image that fails no test has a nominal pitch in its range. -/
theorem imagePitch_range {image : List Byte} (h : imageFailure image = none) :
    1 ≤ imagePitch image ∧ imagePitch image ≤ 65535 := by
  refine ⟨?_, wordAt_le _ _⟩
  unfold imageFailure at h
  split at h
  · cases h
  · split at h
    · cases h
    · simp only [Option.map_eq_none_iff, failedItem, List.find?_eq_none] at h
      have h6 := h 6 (by decide)
      simp only [itemHolds, Bool.not_eq_true, Bool.not_eq_false', decide_eq_true_eq] at h6
      exact h6

theorem raiseUnusable_bounded (h : s.Bounded) : (raiseUnusable s).Bounded := by
  unfold raiseUnusable
  split
  · exact h
  · exact raiseCount_bounded _ _ h

theorem loadPitch_bounded {pitch : Nat} (avg : Nat) (hp : 1 ≤ pitch ∧ pitch ≤ 65535) {b : Bq} (h : b.Bounded) :
    (loadPitch pitch avg b).Bounded :=
  ⟨h.1, h.2.1, by simp [loadPitch], fun n hn => by
    simp only [loadPitch, List.mem_replicate] at hn
    rw [hn.2]
    exact hp⟩

theorem endGood_bounded (hi : imageFailure s.iml.image = none) (h : s.Bounded) : (endGood s).Bounded := by
  have h1 := State.Bounded.modPst (g := fun _ => imageStore s.iml.image)
    (State.Bounded.modSettings (g := fun _ => imageSettings s.iml.image) h)
  have h2 := h1.modBq (g := loadPitch (imagePitch s.iml.image) (byteAt s.iml.image 12))
    (loadPitch_bounded _ (imagePitch_range hi) h.bq)
  exact enterJoining_bounded (raiseUnusable_bounded h2.modIml)

theorem validate_bounded (h : s.Bounded) : (validate s).Bounded := by
  unfold validate
  split
  · split
    · exact endBad_bounded _ _ h
    · rename_i hi
      exact endGood_bounded hi h
  · exact h

/-! ### The robot link -/

theorem shiftOut_bounded (n : Nat) (content : List Byte) (h : s.Bounded) : (shiftOut n content s).Bounded :=
  h.modRlk h.rlk

theorem dataIn_bounded (n : Nat) {effect : State → State} (he : ∀ {t : State}, t.Bounded → (effect t).Bounded)
    (h : s.Bounded) : (dataIn n effect s).Bounded := by
  unfold dataIn
  split
  · exact shiftOut_bounded _ _ h
  · exact he (shiftOut_bounded _ _ h)

theorem dataOut_bounded (n : Nat) (content : List Byte) {effect : State → State}
    (he : ∀ {t : State}, t.Bounded → (effect t).Bounded) (h : s.Bounded) :
    (dataOut n content effect s).Bounded := by
  unfold dataOut
  split
  · exact shiftOut_bounded _ _ h
  · exact he (shiftOut_bounded _ _ h)

theorem motionRecord_bounded (kind : Byte) (spot : Nat) (h : s.Bounded) : (motionRecord kind spot s).Bounded := by
  unfold motionRecord
  split
  · exact gunClosed_bounded _ h
  · exact gunOpened_bounded h
  · exact setWeldCount_bounded (Nat.zero_le _) h
  · exact refuse_bounded _ _ h

theorem writeA_bounded (kind : Byte) (spot : Nat) (h : s.Bounded) : (writeA kind spot s).Bounded := by
  refine dataIn_bounded 4 (fun {t} ht => ?_) h
  split
  · exact refuse_bounded _ _ ht
  · exact motionRecord_bounded _ _ ht

theorem writeB_bounded {effect : State → State} (he : ∀ {t : State}, t.Bounded → (effect t).Bounded)
    (h : s.Bounded) : (writeB effect s).Bounded := dataIn_bounded _ he h

theorem holdCommand_bounded (b : FrameBody) (h : s.Bounded) : (holdCommand b s).Bounded := by
  have h1 : (s.modRlk fun k => { k with mailbox := some b }).Bounded := h.modRlk h.rlk
  exact callArbitration_bounded (h1.modZbc h.zbc)

theorem takeHeld_bounded (b : FrameBody) (h : s.Bounded) : (takeHeld b s).Bounded := by
  unfold takeHeld
  split
  · exact refuse_bounded _ _ h
  · split
    · exact raise_bounded _ _ _ _ _ h
    · split
      · exact refuse_bounded _ _ h
      · split
        · exact refuse_bounded _ _ h
        · exact holdCommand_bounded _ h

theorem takeAbandon_bounded (h : s.Bounded) : (takeAbandon s).Bounded := by
  unfold takeAbandon
  split
  · exact refuse_bounded _ _ h
  · exact endActive_bounded h

theorem takeRejoin_bounded (h : s.Bounded) : (takeRejoin s).Bounded := by
  unfold takeRejoin
  split
  · exact enterJoining_bounded h
  · exact refuse_bounded _ _ h

theorem takeRestart_bounded : (takeRestart s).Bounded :=
  restartNode_bounded.modRlk Rlk.reset_bounded

theorem zoneCommand_bounded (kind : Byte) (fields : BitVec 48) (h : s.Bounded) : (zoneCommand kind fields s).Bounded := by
  unfold zoneCommand
  split
  · exact takeHeld_bounded _ h
  · split
    · exact takeAbandon_bounded h
    · exact takeRejoin_bounded h
    · exact takeRestart_bounded
    · exact refuse_bounded _ _ h

theorem popReport_bounded {k : Rlk} (h : k.Bounded) : (popReport k).Bounded :=
  ⟨by simp only [popReport, List.length_tail]; have := h.1; omega, h.2⟩

theorem placeCursor_bounded (table : Byte) (index : Nat) (h : s.Bounded) : (placeCursor table index s).Bounded := by
  unfold placeCursor
  split
  · rename_i t ht
    refine h.modRlk ⟨h.rlk.1, h.rlk.2.1, ?_⟩
    unfold cursorAt at ht
    split at ht
    · cases ht
    · split at ht
      · rename_i hr
        cases ht
        exact ⟨hr.1, hr.2.le⟩
      · cases ht
  · exact refuse_bounded _ _ h

theorem advanceCursor_bounded {k : Rlk} (h : k.Bounded) : (advanceCursor k).Bounded :=
  ⟨h.1, h.2.1, by
    have h3 := h.2.2.1
    have h4 := h.2.2.2
    simp only [advanceCursor]
    omega, min_le_right _ _⟩

theorem takeCutShort_bounded (bytes : List Byte) (h : s.Bounded) : (takeCutShort bytes s).Bounded := by
  have h1 : (s.modRlk fun k => { k with out := s.partialOut bytes }).Bounded := h.modRlk h.rlk
  unfold takeCutShort
  split
  · dsimp only
    split
    · exact h1
    · exact refuse_bounded _ _ h1
  · exact h

/-! ### Timers -/

theorem onTimer_bounded (left : Option Nat) {event : State → State} (he : ∀ {t : State}, t.Bounded → (event t).Bounded)
    (h : s.Bounded) : (onTimer left event s).Bounded := by
  unfold onTimer
  split
  · exact h
  · exact he (elapse_bounded _ h)

theorem claimWaitExpired_bounded (h : s.Bounded) : (claimWaitExpired s).Bounded := by
  unfold claimWaitExpired
  split
  · exact h.modSru
  · exact timeOutClaim_bounded h

theorem endHold_bounded (h : s.Bounded) : (endHold s).Bounded := by
  unfold endHold
  split
  · exact closeSpot_bounded (updateStage_bounded h)
  · exact closeSpot_bounded h

theorem clock_bounded (h : s.Bounded) : (clock s).Bounded := by
  unfold clock
  split
  · exact joinDone_bounded h
  split
  · exact lapseRow_bounded _ h
  split
  · exact claimWaitExpired_bounded h
  split
  · exact raiseRequest_bounded h
  split
  · exact clearHold_bounded 3 h
  split
  · exact fireIfReady_bounded h
  split
  · exact updateStage_bounded h
  split
  · exact endHold_bounded h
  split
  · exact raiseLate_bounded h
  · exact elapse_bounded 1 h

end Sys2Proof.Machine
end

