-- ==== Sys2Proof/Laws/Untouched.lean ====
section
/-! SUPPORT. Which blocks of the node a shared operation can change: its answer is the state it was given with those
blocks, and no others, replaced. -/

namespace Sys2Proof.Machine

variable {s : State}

/-! ### Zone Bus Controller and Slot Request Unit alone -/

theorem voidChoice_changes : ∃ z u, voidChoice s = { s with zbc := z, sru := u } := by
  unfold voidChoice; split <;> exact ⟨_, _, rfl⟩

/-- Two changes of the same two blocks are one. -/
theorem zbcSru_trans {t r : State} (h : ∃ z u, t = { s with zbc := z, sru := u })
    (h' : ∃ z u, r = { t with zbc := z, sru := u }) : ∃ z u, r = { s with zbc := z, sru := u } := by
  obtain ⟨_, _, rfl⟩ := h
  obtain ⟨_, _, rfl⟩ := h'
  exact ⟨_, _, rfl⟩

theorem chooseSlot_changes : ∃ z u, chooseSlot s = { s with zbc := z, sru := u } := by
  unfold chooseSlot evaluateClaim
  split
  · split <;> exact ⟨_, _, rfl⟩
  · exact ⟨_, _, rfl⟩
  · exact ⟨_, _, rfl⟩
  · split
    · split
      · exact ⟨_, _, rfl⟩
      · split <;> exact ⟨_, _, rfl⟩
    · exact ⟨_, _, rfl⟩

theorem callArbitration_changes : ∃ z u, callArbitration s = { s with zbc := z, sru := u } := by
  unfold callArbitration arbitrate
  split
  · split
    · exact chooseSlot_changes
    · exact zbcSru_trans (zbcSru_trans voidChoice_changes chooseSlot_changes) ⟨_, _, rfl⟩
  · exact ⟨_, _, rfl⟩

theorem voidClaimChoice_changes : ∃ z u, voidClaimChoice s = { s with zbc := z, sru := u } := by
  unfold voidClaimChoice; split
  · exact voidChoice_changes
  · exact ⟨_, _, rfl⟩

theorem sendStart_changes : ∃ z u, sendStart s = { s with zbc := z, sru := u } := by
  unfold sendStart; split
  · exact ⟨_, _, rfl⟩
  · dsimp only; split <;> exact ⟨_, _, rfl⟩

theorem queueRelease_changes : ∃ z u, queueRelease s = { s with zbc := z, sru := u } := by
  unfold queueRelease; split
  · exact ⟨_, _, rfl⟩
  · split
    · exact zbcSru_trans ⟨_, _, rfl⟩ callArbitration_changes
    · exact ⟨_, _, rfl⟩

theorem releaseOrder_changes : ∃ z u, releaseOrder s = { s with zbc := z, sru := u } := by
  unfold releaseOrder; split
  · exact zbcSru_trans ⟨_, _, rfl⟩ queueRelease_changes
  · exact ⟨_, _, rfl⟩

theorem cancelRequest_changes : ∃ z u, cancelRequest s = { s with zbc := z, sru := u } := by
  unfold cancelRequest; split
  · exact ⟨_, _, rfl⟩
  · exact zbcSru_trans voidClaimChoice_changes ⟨_, _, rfl⟩
  · exact ⟨_, _, rfl⟩
  · exact zbcSru_trans ⟨_, _, rfl⟩ releaseOrder_changes
  · exact ⟨_, _, rfl⟩

theorem endVisit_changes : ∃ z u, endVisit s = { s with zbc := z, sru := u } :=
  zbcSru_trans cancelRequest_changes ⟨_, _, rfl⟩

theorem dropClaim_changes : ∃ z u, dropClaim s = { s with zbc := z, sru := u } :=
  zbcSru_trans voidClaimChoice_changes ⟨_, _, rfl⟩

/-! ### Body Queue, Spot Sequencer and Robot Link alone -/

/-- Two changes of the same three blocks are one. -/
theorem bodies_trans {t r : State} (h : ∃ b q k, t = { s with bq := b, ssq := q, rlk := k })
    (h' : ∃ b q k, r = { t with bq := b, ssq := q, rlk := k }) : ∃ b q k, r = { s with bq := b, ssq := q, rlk := k } := by
  obtain ⟨_, _, _, rfl⟩ := h
  obtain ⟨_, _, _, rfl⟩ := h'
  exact ⟨_, _, _, rfl⟩

theorem reportSpot_changes (i : Nat) (res : SpotResult) (early : Bool) :
    ∃ k, reportSpot i res early s = { s with rlk := k } := by
  unfold reportSpot; split <;> exact ⟨_, rfl⟩

theorem reportBody_changes (nowork exited : Bool) : ∃ k, reportBody nowork exited s = { s with rlk := k } := by
  unfold reportBody; split <;> exact ⟨_, rfl⟩

theorem missBadSchedule_changes : ∃ b q k, missBadSchedule s = { s with bq := b, ssq := q, rlk := k } := by
  unfold missBadSchedule
  obtain ⟨_, h⟩ := reportSpot_changes (s := s.modSsq (setOutcome s.ssq.cursor .missed .badSchedule)) s.ssq.cursor
    noCurrentResult false
  rw [h]; exact ⟨_, _, _, rfl⟩

theorem walkPlan_changes (n : Nat) : ∃ b q k, walkPlan n s = { s with bq := b, ssq := q, rlk := k } := by
  induction n generalizing s with
  | zero => exact ⟨_, _, _, rfl⟩
  | succ n ih =>
    unfold walkPlan; split
    · exact ⟨_, _, _, rfl⟩
    · split
      · exact ⟨_, _, _, rfl⟩
      · exact bodies_trans missBadSchedule_changes ih

theorem endBody_changes (nowork exited : Bool) :
    ∃ b q k, endBody nowork exited s = { s with bq := b, ssq := q, rlk := k } := by
  unfold endBody
  obtain ⟨_, h⟩ := reportBody_changes (s := s) nowork exited
  rw [h]; exact ⟨_, _, _, rfl⟩

theorem programStart_changes : ∃ b q k, programStart s = { s with bq := b, ssq := q, rlk := k } := by
  unfold programStart; split <;> exact ⟨_, _, _, rfl⟩

theorem offerHead_changes (n : Nat) : ∃ b q k, offerHead n s = { s with bq := b, ssq := q, rlk := k } := by
  induction n generalizing s with
  | zero => exact ⟨_, _, _, rfl⟩
  | succ n ih =>
    unfold offerHead; split
    · exact ⟨_, _, _, rfl⟩
    · dsimp only; split
      · exact bodies_trans (bodies_trans ⟨_, _, _, rfl⟩ (endBody_changes _ _)) ih
      · split
        · exact bodies_trans (bodies_trans (bodies_trans ⟨_, _, _, rfl⟩ programStart_changes) (walkPlan_changes _))
            ⟨_, _, _, rfl⟩
        · exact bodies_trans (bodies_trans (bodies_trans (bodies_trans ⟨_, _, _, rfl⟩ programStart_changes)
            (walkPlan_changes _)) (endBody_changes _ _)) ih

theorem offerQueue_changes : ∃ b q k, offerQueue s = { s with bq := b, ssq := q, rlk := k } := offerHead_changes _

theorem startRevisit_changes : ∃ b q k, startRevisit s = { s with bq := b, ssq := q, rlk := k } := by
  unfold startRevisit; split <;> exact ⟨_, _, _, rfl⟩

theorem stepPlan_changes : ∃ b q k, stepPlan s = { s with bq := b, ssq := q, rlk := k } := by
  unfold stepPlan; dsimp only; split
  · exact bodies_trans (walkPlan_changes _) ⟨_, _, _, rfl⟩
  · split
    · exact bodies_trans (bodies_trans (walkPlan_changes _) (endBody_changes _ _)) offerQueue_changes
    · split
      · exact bodies_trans (bodies_trans (walkPlan_changes _) startRevisit_changes) ⟨_, _, _, rfl⟩
      · exact bodies_trans (walkPlan_changes _) ⟨_, _, _, rfl⟩

theorem afterClose_changes : ∃ b q k, afterClose s = { s with bq := b, ssq := q, rlk := k } := by
  unfold afterClose; split
  · exact bodies_trans (endBody_changes _ _) offerQueue_changes
  · split
    · exact bodies_trans ⟨_, _, _, rfl⟩ stepPlan_changes
    · exact stepPlan_changes

/-! ### The closing of a spot: the current, the Weld Monitor and the Peer Load Table are left alone -/

/-- Two closings in a row. -/
theorem closing_trans {t r : State}
    (h : ∃ z u b q g k, t = { s with zbc := z, sru := u, bq := b, ssq := q, sgl := g, rlk := k })
    (h' : ∃ z u b q g k, r = { t with zbc := z, sru := u, bq := b, ssq := q, sgl := g, rlk := k }) :
    ∃ z u b q g k, r = { s with zbc := z, sru := u, bq := b, ssq := q, sgl := g, rlk := k } := by
  obtain ⟨_, _, _, _, _, _, rfl⟩ := h
  obtain ⟨_, _, _, _, _, _, rfl⟩ := h'
  exact ⟨_, _, _, _, _, _, rfl⟩

/-- R91, R147: the closing of a spot in hand changes the stage link only by ending a FAULT. -/
theorem closeSpot_endsFault {h : SpotInHand} (hh : s.ssq.inHand = some h) : (closeSpot s).sgl = endFault s.sgl := by
  simp only [closeSpot, hh]
  obtain ⟨k, e⟩ := reportSpot_changes (s := s) h.planIdx (h.result.getD noCurrentResult) h.earlyOpen
  rw [e]
  obtain ⟨z, u, e⟩ := endVisit_changes (s := { s with rlk := k })
  rw [e]
  obtain ⟨_, _, _, e⟩ := afterClose_changes (s := (State.modSgl { s with rlk := k, zbc := z, sru := u }
    endFault).modSsq fun q => { q with inHand := none })
  rw [e]; rfl

/-- The same where no spot need be in hand. -/
theorem closeSpot_link : (closeSpot s).sgl = s.sgl ∨ (closeSpot s).sgl = endFault s.sgl := by
  cases hh : s.ssq.inHand with
  | none => exact .inl (by simp only [closeSpot, hh])
  | some h => exact .inr (closeSpot_endsFault hh)

theorem closeSpot_changes :
    ∃ z u b q g k, closeSpot s = { s with zbc := z, sru := u, bq := b, ssq := q, sgl := g, rlk := k } := by
  unfold closeSpot; split
  · exact ⟨_, _, _, _, _, _, rfl⟩
  · rename_i h _
    dsimp only
    obtain ⟨k, e⟩ := reportSpot_changes (s := s) h.planIdx (h.result.getD noCurrentResult) h.earlyOpen
    rw [e]
    obtain ⟨z, u, e⟩ := endVisit_changes (s := { s with rlk := k })
    rw [e]
    obtain ⟨_, _, _, e⟩ := afterClose_changes (s := (State.modSgl { s with rlk := k, zbc := z, sru := u }
      endFault).modSsq fun q => { q with inHand := none })
    rw [e]; exact ⟨_, _, _, _, _, _, rfl⟩

theorem closeResolved_changes (o : Outcome) (c : Cause) :
    ∃ z u b q g k, closeResolved o c s = { s with zbc := z, sru := u, bq := b, ssq := q, sgl := g, rlk := k } := by
  unfold closeResolved; split
  · exact ⟨_, _, _, _, _, _, rfl⟩
  · exact closing_trans ⟨_, _, _, _, _, _, rfl⟩ closeSpot_changes

theorem claimTimedOut_changes :
    ∃ z u b q g k, claimTimedOut s = { s with zbc := z, sru := u, bq := b, ssq := q, sgl := g, rlk := k } := by
  unfold claimTimedOut deferSpot; split
  · split
    · split
      · exact ⟨_, _, _, _, _, _, rfl⟩
      · split
        · exact closing_trans ⟨_, _, _, _, _, _, rfl⟩ closeSpot_changes
        · exact closeResolved_changes _ _
    · exact closeResolved_changes _ _
  · exact ⟨_, _, _, _, _, _, rfl⟩

theorem timeOutClaim_changes :
    ∃ z u b q g k, timeOutClaim s = { s with zbc := z, sru := u, bq := b, ssq := q, sgl := g, rlk := k } := by
  unfold timeOutClaim
  obtain ⟨z, u, e⟩ := dropClaim_changes (s := s)
  rw [e]
  exact closing_trans (t := { s with zbc := z, sru := u }) ⟨_, _, _, _, _, _, rfl⟩ claimTimedOut_changes

/-! ### Current -/

theorem takeAbort_changes (c : Cause) (p : AbortPath) : ∃ x m, takeAbort c p s = { s with cpg := x, wmn := m } := by
  unfold takeAbort; split
  · split <;> exact ⟨_, _, rfl⟩
  · exact ⟨_, _, rfl⟩

/-- R100, R46: the end of a spot in PRESTART, and a slot lost, leave the Peer Load Table, the Program Store, the
settings and the image alone. -/
theorem slotLost_keeps : (slotLost s).plt = s.plt ∧ (slotLost s).pst = s.pst ∧ (slotLost s).settings = s.settings ∧
    (slotLost s).iml = s.iml := by
  unfold slotLost; split
  · unfold endPrestart
    obtain ⟨_, _, _, _, _, _, e⟩ := closeResolved_changes (s := standDown s) .missed .stage
    rw [e]; exact ⟨rfl, rfl, rfl, rfl⟩
  · exact ⟨rfl, rfl, rfl, rfl⟩
  · obtain ⟨_, _, e⟩ := takeAbort_changes (s := s) .stage .cut
    rw [e]; exact ⟨rfl, rfl, rfl, rfl⟩
  · exact ⟨rfl, rfl, rfl, rfl⟩

/-- R68, R114: what a cleared hold does: bus, claim and sequencer alone. -/
theorem holdCleared_changes : ∃ z u q, holdCleared s = { s with zbc := z, sru := u, ssq := q } := by
  unfold holdCleared; split
  · split
    · obtain ⟨_, _, e⟩ := callArbitration_changes (s := s)
      exact ⟨_, _, _, e⟩
    · dsimp only; split
      · obtain ⟨_, _, e⟩ := zbcSru_trans cancelRequest_changes callArbitration_changes
        exact ⟨_, _, _, e⟩
      · obtain ⟨_, _, e⟩ := callArbitration_changes
        exact ⟨_, _, _, e⟩
  · obtain ⟨_, _, e⟩ := callArbitration_changes (s := s)
    exact ⟨_, _, _, e⟩

end Sys2Proof.Machine
end

