-- ==== Sys2Proof/Laws/Operations.lean ====
section
/-! SUPPORT. What a shared operation answers, said once: the passing of time, a frame heard, a transaction taken, an
update due, the closing of a spot and the end of current. -/

namespace Sys2Proof.Machine

variable {s : State}

/-! ### Rows of the Peer Load Table -/

theorem rowOf_clearRows (p : Plt) (id : Nat) : rowOf (clearRows p) id = none := by
  simp only [rowOf, clearRows, List.getD_eq_getElem?_getD, List.getElem?_replicate]
  split
  · rfl
  · split <;> rfl

theorem rowOf_setRow_self (p : Plt) (id : Nat) (r : Option Row) (h0 : id ≠ 0) (h : id ≤ p.rows.length) :
    rowOf (setRow id r p) id = r := by
  have hi : id - 1 < p.rows.length := by omega
  simp [rowOf, setRow, h0, hi]

theorem rowOf_setRow_other (p : Plt) (id id' : Nat) (r : Option Row) (h : id' ≠ id) :
    rowOf (setRow id r p) id' = rowOf p id' := by
  by_cases h0 : id = 0
  · simp [setRow, h0]
  · simp only [rowOf, setRow, h0, if_false]
    split
    · rfl
    · have hne : id - 1 ≠ id' - 1 := by omega
      simp [List.getElem?_set_ne hne]

theorem rowOf_ageRows (n : Nat) (p : Plt) (id : Nat) :
    rowOf (ageRows n p) id = (rowOf p id).map fun r => { r with lapse := r.lapse - n } := by
  simp only [rowOf, ageRows, List.getD_eq_getElem?_getD, List.getElem?_map]
  split
  · rfl
  · cases p.rows[id - 1]? <;> rfl

/-! ### Time -/

theorem elapse_zero : elapse 0 s = s := rfl

theorem sendStart_unchosen (h : s.zbc.chosen = none) : sendStart s = s := by unfold sendStart; rw [h]

/-- Where no start bit waits, time runs the timers and does nothing else. -/
theorem elapse_unchosen (n : Nat) (hn : n ≠ 0) (h : s.zbc.chosen = none) : elapse n s = ageTimers n s := by
  unfold elapse; rw [if_neg hn]; split
  · exact sendStart_unchosen h
  · rfl

/-- Time runs the timers, and then, it may be, sends a start bit. -/
theorem elapse_cases (n : Nat) (hn : n ≠ 0) : elapse n s = ageTimers n s ∨ elapse n s = sendStart (ageTimers n s) := by
  unfold elapse; rw [if_neg hn]; split
  · exact .inr rfl
  · exact .inl rfl

/-- What a start bit leaves of the claim: all of it but, for a CLAIM, its state. -/
theorem sendStart_sru : (sendStart s).sru = s.sru ∨ (sendStart s).sru = { s.sru with claim := .offered } := by
  unfold sendStart; split
  · exact .inl rfl
  · dsimp only; split
    · exact .inr rfl
    · exact .inl rfl

/-! ### Frames -/

/-- The node's own frame is the one on the wire. -/
theorem onWire_sending {slot : Slot} {f : Frame} (h : s.sending slot f) :
    (sendStart s).onWire = some (slot, f) ∧ sendStart s = s := by
  obtain ⟨h1, h2, h3⟩ := h
  rw [sendStart_unchosen h1]; simp [State.onWire, h2, h3]

/-- A frame heard by a node that sends nothing. -/
theorem receiveFrame_listening (h : s.listening = true) (f : Frame) :
    receiveFrame f s = takeFrame s.zbc.clashTold f (s.afterHearing .receiptSlot) := by
  simp only [State.listening, Bool.and_eq_true, decide_eq_true_eq] at h
  obtain ⟨h1, h2, h3⟩ := h
  simp only [receiveFrame, h1, if_true, sendStart_unchosen h3, State.onWire, h2]; rfl

/-- R9: a valid frame of another node is applied. -/
theorem takeFrame_peer {f : Frame} (h : s.peerFrame f) (told : Bool) (d : Drive) :
    takeFrame told f (s.afterHearing d) = applyFrame false f (s.afterHearing d) := by
  have h2 : f.arb.sender.toNat ≠ (s.afterHearing d).settings.ownId := h.2
  simp [takeFrame, h.1, h2]

theorem receiveFrame_peer (h : s.listening = true) {f : Frame} (hp : s.peerFrame f) :
    receiveFrame f s = applyFrame false f (s.afterHearing .receiptSlot) := by
  rw [receiveFrame_listening h, takeFrame_peer hp]

theorem peerFrame_sender {f : Frame} (h : s.peerFrame f) : f.arb.sender.toNat ≠ 0 := by
  have hv := h.1
  simp only [frameValid, Bool.and_eq_true, decide_eq_true_eq] at hv
  exact hv.1

/-! ### Transactions -/

theorem writeA_takes (kind : Byte) (spot : Nat) (h : s.linkTakes) :
    writeA kind spot s = motionRecord kind spot (s.afterDataIn 4) := by
  simp only [writeA, dataIn, h.1, if_false]
  exact if_neg h.2

theorem writeB_takes (effect : State → State) (h : s.zbc.node ≠ .loading) :
    writeB effect s = effect (s.afterDataIn 8) := by
  simp only [writeB, dataIn, h, if_false]; rfl

theorem statusRecord_length : s.statusRecord.length = 23 := by simp [State.statusRecord, bytes2]

theorem rowRecord_length : s.rowRecord.length = 28 := by
  unfold State.rowRecord; dsimp only; split <;> simp [padTo, bytes2]

theorem reportRecord_length (n : Option Numbered) : (reportRecord n).length = 24 := by
  cases n <;> simp [reportRecord, padTo]

theorem tableOf_tableCode (t : Table) : tableOf (tableCode t) = some t := by cases t <;> rfl

theorem tableCode_of_tableOf {code : Nat} {t : Table} (h : tableOf code = some t) : tableCode t = code := by
  unfold tableOf at h; split at h <;> simp_all <;> subst h <;> rfl

/-! ### Flags -/

/-- R192: a flag is set where its bit is. -/
theorem and_flagMask (x : BitVec 16) (f : Flag) : (x &&& flagMask f != 0) = x.getLsbD (flagBit f) := by
  have e : flagMask f = BitVec.twoPow 16 (flagBit f) := by cases f <;> decide
  have hk : flagBit f < 16 := by cases f <;> decide
  rw [e, BitVec.and_twoPow]
  generalize flagBit f = k at hk
  have hz : BitVec.twoPow 16 k ≠ 0 := by
    intro h
    have hb := congrArg (·.getLsbD k) h
    simp [hk] at hb
  by_cases h : x.getLsbD k
  · simpa [h] using hz
  · simp [h]

/-- R192: every bit of the flags is one flag's. -/
theorem flag_of_bit (k : Nat) (h : k < 16) : ∃ f, flagBit f = k := by
  have all : ∀ k : Fin 16, ∃ f, flagBit f = k.val := by
    intro k
    fin_cases k
    exacts [⟨.imageBad, rfl⟩, ⟨.scheduleBad, rfl⟩, ⟨.joinDone, rfl⟩, ⟨.busSilent, rfl⟩, ⟨.idClash, rfl⟩, ⟨.alone, rfl⟩,
      ⟨.bodyDropped, rfl⟩, ⟨.bodyDuplicate, rfl⟩, ⟨.bodyGap, rfl⟩, ⟨.spotMismatch, rfl⟩, ⟨.robotLate, rfl⟩,
      ⟨.mailboxOverrun, rfl⟩, ⟨.commandRefused, rfl⟩, ⟨.zoneHoldChange, rfl⟩, ⟨.tipDressDue, rfl⟩, ⟨.reportLost, rfl⟩]
  exact all ⟨k, h⟩

/-! ### The plan -/

/-- R94: a spot id finds its plan entry. -/
theorem findIdx_spotId {l : List PlanEntry} {i n : Nat} {e : PlanEntry} (h : l[i]? = some e) (he : e.spotId = n)
    (hd : (l.map PlanEntry.spotId).Nodup) : l.findIdx? (fun e => decide (e.spotId = n)) = some i := by
  rw [List.findIdx?_eq_some_iff_getElem]
  obtain ⟨hi, hx⟩ := List.getElem?_eq_some_iff.1 h
  refine ⟨hi, by simp [hx, he], fun j hj => ?_⟩
  simp only [decide_eq_true_eq, ← he]
  intro hc
  have hij := (List.nodup_iff_injective_getElem.1 hd) (a₁ := ⟨j, by simp; omega⟩) (a₂ := ⟨i, by simp; omega⟩)
    (by simp [hc, hx])
  simp at hij; omega

/-- R111: one place of the learned move times is set. -/
theorem setSparse_getD (l : List Nat) (i v j : Nat) : (setSparse l i v).getD j 0 = if j = i then v else l.getD j 0 := by
  induction l generalizing i j with
  | nil =>
    induction i generalizing j with
    | zero => cases j <;> simp [setSparse]
    | succ i ih => cases j <;> simp [setSparse]; simpa using ih _
  | cons a t ih =>
    cases i <;> cases j <;> simp [setSparse]
    simpa using ih _ _

theorem reportSpot_ssq (i : Nat) (res : SpotResult) (early : Bool) : (reportSpot i res early s).ssq = s.ssq := by
  obtain ⟨_, e⟩ := reportSpot_changes (s := s) i res early; rw [e]

theorem missBadSchedule_ssq : (missBadSchedule s).ssq =
    openMove { setOutcome s.ssq.cursor .missed .badSchedule s.ssq with cursor := s.ssq.cursor + 1 } := by
  simp only [missBadSchedule, State.modSsq_ssq, reportSpot_ssq]; rfl

theorem missBadSchedule_bq : (missBadSchedule s).bq = s.bq := by
  unfold missBadSchedule
  obtain ⟨_, e⟩ := reportSpot_changes (s := s.modSsq (setOutcome s.ssq.cursor .missed .badSchedule)) s.ssq.cursor
    noCurrentResult false
  rw [e]; rfl

/-- R90: the walk moves the cursor on and resolves what it passes; all else of the sequencer but the move stays. -/
theorem walkPlan_keeps (n : Nat) :
    (walkPlan n s).ssq.deferred = s.ssq.deferred ∧ (walkPlan n s).bq = s.bq ∧
    s.ssq.cursor ≤ (walkPlan n s).ssq.cursor ∧ (walkPlan n s).ssq.active = s.ssq.active ∧
    (walkPlan n s).ssq.pass = s.ssq.pass ∧ (walkPlan n s).ssq.inHand = s.ssq.inHand ∧
    ∀ j, j < s.ssq.cursor → (walkPlan n s).ssq.plan[j]? = s.ssq.plan[j]? := by
  induction n generalizing s with
  | zero => exact ⟨rfl, rfl, le_refl _, rfl, rfl, rfl, fun _ _ => rfl⟩
  | succ n ih =>
    unfold walkPlan; split
    · exact ⟨rfl, rfl, le_refl _, rfl, rfl, rfl, fun _ _ => rfl⟩
    · split
      · exact ⟨rfl, rfl, le_refl _, rfl, rfl, rfl, fun _ _ => rfl⟩
      · obtain ⟨a1, a2, a3, a4, a5, a6, a7⟩ := ih (s := missBadSchedule s)
        rw [missBadSchedule_ssq] at a1 a3 a4 a5 a6 a7
        rw [missBadSchedule_bq] at a2
        refine ⟨a1, a2, ?_, a4, a5, a6, fun j hj => ?_⟩
        · simp only [openMove] at a3; omega
        · refine (a7 j (by simp only [openMove]; omega)).trans ?_
          have hne : s.ssq.cursor ≠ j := by omega
          simp [openMove, setOutcome, hne]

/-- R106: in MAIN with a deferred spot the sequencer steps to AWAIT_GUN, whatever the rest of the plan holds. -/
theorem stepPlan_deferred {b : ActiveBody} (hd : s.ssq.deferred ≠ []) (hp : s.ssq.pass = .main)
    (ha : s.ssq.active = some b) :
    (stepPlan s).ssq.state = .awaitGun ∧ (stepPlan s).ssq.inHand = s.ssq.inHand ∧
    (stepPlan s).ssq.deferred = s.ssq.deferred ∧ (stepPlan s).ssq.active = s.ssq.active ∧ (stepPlan s).bq = s.bq ∧
    ∀ j, j < s.ssq.cursor → (stepPlan s).ssq.plan[j]? = s.ssq.plan[j]? := by
  unfold stepPlan
  obtain ⟨a1, a2, -, a4, a5, a6, a7⟩ := walkPlan_keeps (s := s) (s.ssq.plan.length - s.ssq.cursor)
  generalize walkPlan (s.ssq.plan.length - s.ssq.cursor) s = t at *
  rw [← a1] at hd
  rw [← a5] at hp
  dsimp only
  split
  · exact ⟨rfl, a6, a1, a4, a2, a7⟩
  · have ha' : t.ssq.active = some b := by rw [a4, ha]
    simp only [startRevisit, ha']
    exact ⟨rfl, a6, a1, (by rw [ha]; exact ha'), a2, a7⟩

/-- R91: the closing of a spot whose claim is NONE. -/
theorem closeSpot_noClaim {h : SpotInHand} (hh : s.ssq.inHand = some h) (hc : s.sru.claim = .none) :
    ∃ k, closeSpot s = afterClose { s with
      rlk := k, sgl := endFault s.sgl, ssq := { s.ssq with inHand := none },
      sru := { s.sru with
        claim := .none, request := none, waitTimer := none, expiryHeld := false, visitRequested := false } } := by
  obtain ⟨k, hk⟩ := reportSpot_changes (s := s) h.planIdx (h.result.getD noCurrentResult) h.earlyOpen
  refine ⟨k, ?_⟩
  simp only [closeSpot, hh, hk, endVisit, cancelRequest, hc, State.modSsq, State.modSru, State.modSgl]

/-! ### Current -/

/-- R146: an update that finds no LINK fault counts the answer before it, missing or not. -/
theorem countMissing_due {p : Phase} (h : s.updateDue p) :
    countMissing s.sgl = { s.sgl with missing := s.sgl.missingNow } := by
  unfold countMissing Sgl.missingNow; split
  · rfl
  · rename_i hn
    have hm : min Config.linkMissing (s.sgl.missing + 1) = s.sgl.missing + 1 := by
      have := h.2.1.resolve_left hn; unfold Config.linkMissing; omega
    rw [hm]

/-- R125, R144, R146: an update that is due and finds no LINK fault is the profile's. -/
theorem updateStage_due {p : Phase} (h : s.updateDue p) : exec .stageUpdate s =
    .next (profileUpdate (s.modSgl fun g => { g with missing := g.missingNow })) := by
  obtain ⟨h1, h2, h3, -⟩ := id h
  have hl : s.updateLeft = some 0 := by simp [State.updateLeft, h1, h3]
  have hs : s.modSgl countMissing = s.modSgl fun g => { g with missing := g.missingNow } := by
    simp [State.modSgl, countMissing_due h]
  have hf : ¬(s.sgl.answered = false ∧ (s.modSgl countMissing).sgl.missing = Config.linkMissing) := by
    rw [hs]; rintro ⟨ha, hm⟩
    simp only [State.modSgl_sgl, Sgl.missingNow, ha, Config.linkMissing] at hm
    rcases h2 with h2 | h2
    · simp [ha] at h2
    · simp at hm; omega
  have hu : updateStage s = profileUpdate (s.modSgl countMissing) := by
    simp only [updateStage, h1]; rw [if_neg hf]
  simp only [exec, execStageUpdate, hl, onTimer, elapse_zero, hu, hs]

theorem endFault_lastFrame (g : Sgl) : (endFault g).lastFrame = g.lastFrame := by unfold endFault; split <;> rfl

theorem leaveActive_lastFrame (g : Sgl) : (leaveActive g).lastFrame = g.lastFrame := by
  unfold leaveActive; split <;> rfl

/-- R136, R156: an abort order in current is taken. -/
theorem takeAbort_inCurrent (h : s.inCurrent) (c : Cause) (p : AbortPath) :
    takeAbort c p s = { s with cpg := s.cpgAborting c p, wmn := s.wmnCut } := by
  have ha : abortable s.cpg.phase = true := by rcases h with h | h | h | h <;> simp [h, abortable]
  simp only [takeAbort, ha, if_true, State.wmnCut]
  split <;> rfl

/-- R136, R139: an abort order has no effect outside current. -/
theorem takeAbort_outside (h : ¬s.inCurrent) (c : Cause) (p : AbortPath) : takeAbort c p s = s := by
  refine if_neg fun ha => h ?_
  simp only [State.inCurrent]
  revert ha; cases s.cpg.phase <;> simp [abortable]

/-- R101: entry to HOLD leaves the current, the table and the frame last sent alone. -/
theorem enterHold_keeps (holdMs : Nat) : (enterHold holdMs s).cpg = s.cpg ∧
    (enterHold holdMs s).sgl.lastFrame = s.sgl.lastFrame ∧ (enterHold holdMs s).plt = s.plt := by
  unfold enterHold; dsimp only
  have key : ∀ t : State, t.cpg = s.cpg → t.sgl = s.sgl → t.plt = s.plt → (closeSpot t).cpg = s.cpg ∧
      (closeSpot t).sgl.lastFrame = s.sgl.lastFrame ∧ (closeSpot t).plt = s.plt := by
    intro t h1 h2 h3
    have hl := closeSpot_link (s := t)
    obtain ⟨_, _, _, _, _, _, e⟩ := closeSpot_changes (s := t)
    refine ⟨by rw [e]; exact h1, ?_, by rw [e]; exact h3⟩
    rcases hl with h | h <;> rw [h, ← h2]
    exact endFault_lastFrame _
  split
  · split
    · exact key _ rfl rfl rfl
    · exact ⟨rfl, rfl, rfl⟩
  · exact ⟨rfl, rfl, rfl⟩

/-- R135, R140: current end turns the profile off, whatever becomes of the spot. -/
theorem currentEnd_keeps : (currentEnd s).cpg = cpgOff s.cpg ∧ (currentEnd s).sgl.lastFrame = s.sgl.lastFrame ∧
    (currentEnd s).plt = s.plt := by
  unfold currentEnd
  obtain ⟨z, u, e⟩ := releaseOrder_changes (s := s)
  split
  · rw [e]; exact ⟨rfl, leaveActive_lastFrame _, rfl⟩
  · rename_i h _
    dsimp only
    rw [e]
    obtain ⟨z', u', e'⟩ := endVisit_changes (s := State.modSsq { s with zbc := z, sru := u } fun q =>
      { resolveEntry h.planIdx (outcomeAtEnd s.cpg.abort s.wmn.worst).1 (outcomeAtEnd s.cpg.abort s.wmn.worst).2 q with
        inHand := some { h with result := some s.spotResult } })
    rw [e']
    generalize ht : standDown (State.mk _ _ _ _ _ _ _ _ _ _ _ _ _ _ _) = t
    obtain ⟨a, b, c⟩ := enterHold_keeps (s := t) (s.planSchedule h.planIdx).hold
    rw [a, b, c, ← ht]
    exact ⟨rfl, leaveActive_lastFrame _, rfl⟩

end Sys2Proof.Machine
end

