-- ==== Sys2Proof/Laws/Closing.lean ====
section
/-! SUPPORT. What a release order, the end of a visit, the closing of a spot, EXIT and ABANDON of the active body, the
end of a zone hold and the end of current leave, said once. -/

namespace Sys2Proof.Machine

variable {s : State}

/-! ### Arbitration starts and release orders -/

/-- R14, R35: an arbitration start leaves the RELEASE slot and all of the claim but its pending record alone. -/
theorem callArbitration_keeps : (callArbitration s).zbc.releaseSlot = s.zbc.releaseSlot ∧
    (callArbitration s).sru = { s.sru with record := (callArbitration s).sru.record } := by
  have choice : ∀ t : State, (chooseSlot t).zbc.releaseSlot = t.zbc.releaseSlot ∧
      (chooseSlot t).sru = { t.sru with record := (chooseSlot t).sru.record } := by
    intro t; unfold chooseSlot evaluateClaim
    repeat' split
    all_goals exact ⟨rfl, rfl⟩
  unfold callArbitration arbitrate
  split
  · split
    · exact choice s
    · obtain ⟨h1, h2⟩ := choice (voidChoice s)
      have hv : (voidChoice s).zbc.releaseSlot = s.zbc.releaseSlot ∧
          (voidChoice s).sru = { s.sru with record := (voidChoice s).sru.record } := by
        unfold voidChoice; split <;> exact ⟨rfl, rfl⟩
      rw [hv.1] at h1
      refine ⟨?_, ?_⟩
      · rw [← h1]; simp only [State.modZbc, keepMoment]; split <;> rfl
      · simp only [State.modZbc_sru]; rw [h2, hv.2]
  · exact ⟨rfl, rfl⟩

/-- R14, R35: an arbitration start leaves the whole claim alone unless it is WAITING or its CLAIM is chosen. -/
theorem callArbitration_unclaimed (h : s.sru.claim ≠ .waiting) (hc : s.zbc.chosen ≠ some .claim) :
    (callArbitration s).sru = s.sru := by
  have choice : ∀ t : State, t.sru = s.sru → (chooseSlot t).sru = s.sru := by
    intro t ht
    have hm : t.mayOffer = false := by simp [State.mayOffer, ht, h]
    unfold chooseSlot; rw [hm]
    repeat' split
    all_goals first | exact ht | contradiction
  unfold callArbitration arbitrate
  split
  · split
    · exact choice s rfl
    · refine choice (voidChoice s) ?_
      unfold voidChoice; split
      · rfl
      · rename_i hv; exact absurd hv hc
      · rfl
  · rfl

/-- R45: a release order takes a GRANTED claim to RELEASING. -/
theorem releaseOrder_sru (hg : s.sru.claim = .granted) :
    (releaseOrder s).sru = { s.sru with claim := .releasing, record := (releaseOrder s).sru.record } := by
  simp only [releaseOrder, hg, if_true, queueRelease]
  split
  · rfl
  · split
    · rw [callArbitration_keeps.2]; rfl
    · rfl

/-- R45: a release order of a GRANTED claim whose row is occupied. -/
theorem releaseOrder_released {r : Row} (hg : s.sru.claim = .granted) (hr : s.ownRow = some r) :
    s.releasedIn (releaseOrder s) r ∧
      (releaseOrder s).sru = { s.sru with claim := .releasing, record := (releaseOrder s).sru.record } := by
  have hr' : (s.modSru fun u => { u with claim := .releasing }).ownRow = some r := hr
  simp only [releaseOrder, hg, if_true, queueRelease, hr', State.releasedIn]
  split
  · rename_i hn
    obtain ⟨h1, h2⟩ := callArbitration_keeps (s := (s.modSru fun u => { u with claim := .releasing }).modZbc fun z =>
      { z with releaseSlot := some ((s.modSru fun u => { u with claim := .releasing }).releaseFrameOf r.spotId),
               releaseCancelled := false })
    refine ⟨⟨by rw [h2]; rfl, fun _ => h1, fun h => ?_⟩, h2⟩
    rcases hn with hn | hn <;> (rw [State.modSru_zbc, h] at hn; cases hn)
  · rename_i hn
    exact ⟨⟨rfl, fun h => absurd h hn, fun _ => rfl⟩, rfl⟩

/-- R45: a release order leaves the request alone. -/
theorem releaseOrder_request : (releaseOrder s).sru.request = s.sru.request := by
  unfold releaseOrder; split
  · unfold queueRelease; split
    · rfl
    · split
      · rw [callArbitration_keeps.2]; rfl
      · rfl
  · rfl

/-- R43, R44: when a visit ends, its request is gone and its claim-wait timer discarded. -/
theorem endVisit_request : (endVisit s).sru.request = none ∧ (endVisit s).sru.waitTimer = none := by
  refine ⟨?_, rfl⟩
  simp only [endVisit, State.modSru_sru]
  unfold cancelRequest; split
  · rfl
  · rfl
  · rfl
  · exact releaseOrder_request
  · rfl

/-- R43, R45, R91: a visit ends with its claim GRANTED. -/
theorem endVisit_released {r : Row} (hg : s.sru.claim = .granted) (hr : s.ownRow = some r) :
    s.releasedIn (endVisit s) r ∧
      (endVisit s).sru = { s.sru.visitOver .releasing with record := (endVisit s).sru.record } := by
  have hg' : (s.modSru fun u => { u with request := none }).sru.claim = .granted := hg
  obtain ⟨⟨h1, h2, h3⟩, h4⟩ := releaseOrder_released (s := s.modSru fun u => { u with request := none }) hg' hr
  simp only [endVisit, cancelRequest, hg]
  refine ⟨⟨h1, h2, h3⟩, ?_⟩
  simp only [State.modSru_sru]; rw [h4]; rfl

/-- R43, R91: a visit ends with its claim NONE or RELEASING. -/
theorem endVisit_unclaimed (h : s.sru.claim = .none ∨ s.sru.claim = .releasing) :
    endVisit s = { s with sru := s.sru.visitOver s.sru.claim } := by
  simp only [endVisit, cancelRequest]
  rcases h with h | h <;> simp [h, State.modSru, Sru.visitOver]

/-- R43, R44, R91: a visit ends with its claim WAITING and no CLAIM chosen. -/
theorem endVisit_waiting (h : s.sru.claim = .waiting) (hc : s.zbc.chosen ≠ some .claim) :
    endVisit s = { s with sru := { s.sru.visitOver .none with record := none } } := by
  simp [endVisit, cancelRequest, h, voidClaimChoice, hc, State.modSru, Sru.visitOver]

/-- R14: an arbitration start changes the choice, its moment and the CLAIM slot of the bus alone. -/
theorem callArbitration_zbc : (callArbitration s).zbc = { s.zbc with
    chosen := (callArbitration s).zbc.chosen, startIn := (callArbitration s).zbc.startIn,
    claimSlot := (callArbitration s).zbc.claimSlot } := by
  have choice : ∀ t : State, (chooseSlot t).zbc = { t.zbc with
      chosen := (chooseSlot t).zbc.chosen, startIn := (chooseSlot t).zbc.startIn,
      claimSlot := (chooseSlot t).zbc.claimSlot } := by
    intro t; unfold chooseSlot evaluateClaim
    repeat' split
    all_goals rfl
  have void : (voidChoice s).zbc = { s.zbc with
      chosen := (voidChoice s).zbc.chosen, startIn := (voidChoice s).zbc.startIn,
      claimSlot := (voidChoice s).zbc.claimSlot } := by
    unfold voidChoice; split <;> rfl
  unfold callArbitration arbitrate
  split
  · split
    · exact choice s
    · have h := choice (voidChoice s)
      generalize chooseSlot (voidChoice s) = c at h ⊢
      simp only [State.modZbc]
      rw [h, void]
      unfold keepMoment
      split <;> rfl
  · rfl

/-- R45: a release order of a GRANTED claim changes the RELEASE slot and what an arbitration start changes. -/
theorem releaseOrder_zbc : (releaseOrder s).zbc = { s.zbc with
    releaseSlot := (releaseOrder s).zbc.releaseSlot, releaseCancelled := (releaseOrder s).zbc.releaseCancelled,
    chosen := (releaseOrder s).zbc.chosen, startIn := (releaseOrder s).zbc.startIn,
    claimSlot := (releaseOrder s).zbc.claimSlot } := by
  unfold releaseOrder queueRelease
  split
  · split
    · rfl
    · split
      · rw [callArbitration_zbc]; rfl
      · rfl
  · rfl

/-- R43 to R45, R91: what the end of a visit leaves of claim and slots. -/
theorem endVisit_ended : s.visitEndedIn (endVisit s) := by
  refine ⟨fun h => ?_, fun h => ?_, fun h => ?_, fun r hg hr => ?_⟩
  · rw [endVisit_unclaimed h]; exact ⟨rfl, rfl⟩
  · by_cases hc : s.zbc.chosen = some .claim
    · simp only [endVisit, cancelRequest, h, voidClaimChoice, voidChoice, hc, if_true]
      exact ⟨rfl, fun hn => absurd rfl hn, fun _ => rfl⟩
    · rw [endVisit_waiting h hc]
      exact ⟨rfl, fun _ => rfl, fun hn => absurd hn hc⟩
  · simp only [endVisit, cancelRequest, h]
    refine ⟨rfl, ?_⟩
    simp [State.modSru, Sru.visitOver, h]
  · obtain ⟨h1, h2⟩ := endVisit_released hg hr
    refine ⟨h1, h2, ?_⟩
    simp only [endVisit, cancelRequest, hg, State.modSru_zbc]
    exact releaseOrder_zbc

/-- The end of a visit reads and writes claim and slots alone. -/
theorem visitEnded_congr {s' t t' : State} (h : s.visitEndedIn t) (h1 : s'.sru = s.sru) (h2 : s'.zbc = s.zbc)
    (h3 : s'.plt = s.plt) (h4 : s'.settings = s.settings) (h5 : t'.sru = t.sru) (h6 : t'.zbc = t.zbc) :
    s'.visitEndedIn t' := by
  unfold State.visitEndedIn State.releasedIn State.ownRow at *
  rw [h1, h2, h3, h4, h5, h6]; exact h

/-! ### The closing of a spot -/

/-- R148: out of ACTIVE the stage link is IDLE, unless it is in FAULT. -/
theorem leaveActive_idle {g : Sgl} (h : g.link ≠ .fault) : (leaveActive g).link = .idle := by
  unfold leaveActive; split
  · rfl
  · rename_i ha; revert h ha; cases g.link <;> simp

theorem leaveActive_stands {g : Sgl} (h : g.link ≠ .fault) :
    leaveActive g = { g with link := .idle, updateIn := (leaveActive g).updateIn } := by
  rw [← leaveActive_idle h]
  unfold leaveActive; split <;> rfl

theorem endFault_of_ne {g : Sgl} (h : g.link ≠ .fault) : endFault g = g := if_neg h

/-- R101: outside FAULT hold end is the closing of the spot alone. -/
theorem endHold_of_ne (h : s.sgl.link ≠ .fault) : endHold s = closeSpot s :=
  congrArg closeSpot (if_neg fun hc => h hc.1)

/-- R147: in FAULT hold end leaves the stage link in IDLE, after the zero frame that is due. -/
theorem endHold_fault {h : SpotInHand} (hh : s.ssq.inHand = some h) (hf : s.sgl.link = .fault) :
    (endHold s).sgl =
      { (if s.sgl.updateIn = 0 then sendFrame 0 s.sgl else s.sgl) with link := .idle, updateIn := 0 } := by
  unfold endHold
  by_cases hu : s.sgl.updateIn = 0
  · have e : updateStage s = s.modSgl (sendFrame 0) := by simp only [updateStage, hf]
    rw [if_pos ⟨hf, hu⟩, if_pos hu, e, closeSpot_endsFault (s := s.modSgl (sendFrame 0)) hh]
    exact if_pos hf
  · rw [if_neg fun hc => hu hc.2, if_neg hu, closeSpot_endsFault hh]
    exact if_pos hf

/-- R90: with a spot of a USABLE schedule at the cursor the sequencer awaits it. -/
theorem stepPlan_usable {e : PlanEntry} (h : s.ssq.plan[s.ssq.cursor]? = some e)
    (hu : (scheduleOf s.pst e.sched).mark = .usable) : stepPlan s = awaitGun s := by
  obtain ⟨hi, -⟩ := List.getElem?_eq_some_iff.1 h
  have hw : walkPlan (s.ssq.plan.length - s.ssq.cursor) s = s := by
    obtain ⟨k, hk⟩ : ∃ k, s.ssq.plan.length - s.ssq.cursor = k + 1 := ⟨s.ssq.plan.length - s.ssq.cursor - 1, by omega⟩
    rw [hk]; simp [walkPlan, h, hu]
  simp only [stepPlan, hw, if_pos hi]

/-- R90: past the end of MAIN the walk is over. -/
theorem walkPlan_end (n : Nat) (h : s.ssq.plan.length ≤ s.ssq.cursor) : walkPlan n s = s := by
  cases n with
  | zero => rfl
  | succ n => simp [walkPlan, List.getElem?_eq_none h]

/-- R107: in REVISIT with a deferred spot left the sequencer awaits the head. -/
theorem stepPlan_revisit (h : s.ssq.plan.length ≤ s.ssq.cursor) (hd : s.ssq.deferred ≠ []) (hp : s.ssq.pass = .revisit) :
    stepPlan s = awaitGun s := by
  simp only [stepPlan, walkPlan_end _ h, Nat.not_lt.2 h, if_false, hd, hp]; rfl

/-- R106, R107: past the end of MAIN with deferred spots left REVISIT starts and the sequencer awaits the head. -/
theorem stepPlan_start (h : s.ssq.plan.length ≤ s.ssq.cursor) (hd : s.ssq.deferred ≠ []) (hp : s.ssq.pass = .main) :
    stepPlan s = awaitGun (startRevisit s) := by
  simp only [stepPlan, walkPlan_end _ h, Nat.not_lt.2 h, if_false, hd, hp, if_true]

/-- R120: past the end of MAIN with no deferred spot left the body is done. -/
theorem stepPlan_done (h : s.ssq.plan.length ≤ s.ssq.cursor) (hd : s.ssq.deferred = []) :
    stepPlan s = offerQueue (endBody false false s) := by
  simp only [stepPlan, walkPlan_end _ h, Nat.not_lt.2 h, if_false, hd, if_true]

/-- R58: an empty queue offers nothing. -/
theorem offerQueue_empty (h : s.bq.queue = []) : offerQueue s = s := by
  simp [offerQueue, h, offerHead]

/-- R102: the SPOT-DONE of a plan entry of the active body. -/
theorem reportSpot_entry {e : PlanEntry} {b : ActiveBody} {i : Nat} (he : s.ssq.plan[i]? = some e)
    (hb : s.ssq.active = some b) (res : SpotResult) (early : Bool) : reportSpot i res early s =
      generate (.spotDone b.serial b.zoneSeq e.spotId s.ssq.pass e.outcome e.cause res early) s := by
  simp only [reportSpot, he, hb]

/-- R90, R91, R102, R110: the spot in hand is closed in MAIN and another follows: its SPOT-DONE is queued, its visit
ends, and the next is awaited. -/
theorem closeSpot_main {h : SpotInHand} {e next : PlanEntry} {b : ActiveBody} (h1 : s.ssq.inHand = some h)
    (h2 : s.ssq.plan[h.planIdx]? = some e) (h3 : s.ssq.active = some b) (h4 : s.ssq.pass = .main)
    (h5 : s.ssq.ending = false) (h6 : s.ssq.plan[s.ssq.cursor + 1]? = some next)
    (h7 : (scheduleOf s.pst next.sched).mark = .usable) :
    closeSpot s =
      { endVisit (generate (.spotDone b.serial b.zoneSeq e.spotId .main e.outcome e.cause
          (h.result.getD noCurrentResult) h.earlyOpen) s) with
        sgl := endFault s.sgl,
        ssq := { s.ssq with
          state := .awaitGun, inHand := none, cursor := s.ssq.cursor + 1, moveTimer := 0, moveOpen := true,
          late := false } } := by
  simp only [closeSpot, h1, reportSpot_entry h2 h3, h4]
  generalize hg : generate _ s = t
  have ht : t = { s with rlk := t.rlk } := by rw [← hg]; rfl
  obtain ⟨z, u, hv⟩ := endVisit_changes (s := t)
  rw [hv, ht]
  simp only [afterClose, State.modSgl, State.modSsq, h5, h4]
  refine (stepPlan_usable (e := next) ?_ ?_).trans ?_
  exacts [h6, h7, by simp [awaitGun, State.modSsq, openMove]]

/-- R91, R102, R107: the spot in hand is closed in REVISIT, off the deferred list, and another follows: its SPOT-DONE is
queued, its visit ends, and the head is awaited. -/
theorem closeSpot_revisit {h : SpotInHand} {e : PlanEntry} {b : ActiveBody} (h1 : s.ssq.inHand = some h)
    (h2 : s.ssq.plan[h.planIdx]? = some e) (h3 : s.ssq.active = some b) (h4 : s.ssq.pass = .revisit)
    (h5 : s.ssq.ending = false) (h6 : s.ssq.plan.length ≤ s.ssq.cursor) (h7 : s.ssq.deferred ≠ []) :
    closeSpot s =
      { endVisit (generate (.spotDone b.serial b.zoneSeq e.spotId .revisit e.outcome e.cause
          (h.result.getD noCurrentResult) h.earlyOpen) s) with
        sgl := endFault s.sgl, ssq := { s.ssq with state := .awaitGun, inHand := none } } := by
  simp only [closeSpot, h1, reportSpot_entry h2 h3, h4]
  generalize hg : generate _ s = t
  have ht : t = { s with rlk := t.rlk } := by rw [← hg]; rfl
  obtain ⟨z, u, hv⟩ := endVisit_changes (s := t)
  rw [hv, ht]
  simp only [afterClose, State.modSgl, State.modSsq, h5, h4]
  refine (stepPlan_revisit ?_ ?_ ?_).trans ?_
  exacts [h6, h7, rfl, rfl]

/-- R91, R97, R100, R110: the spot at the cursor of MAIN is closed MISSED without current, and another follows. -/
theorem closeResolved_midPlan {h : SpotInHand} {e next : PlanEntry} {b : ActiveBody} (hm : s.midPlan h e next b)
    (c : Cause) :
    closeResolved .missed c s =
      { endVisit { s with rlk := s.rlkMissed b e c h.earlyOpen, ssq := resolveEntry s.ssq.cursor .missed c s.ssq } with
        ssq := s.ssqMissed c } := by
  obtain ⟨h1, h2, h3, h4, h5, h6, h7, h8, h9, h10⟩ := hm
  have hp : (resolveEntry s.ssq.cursor .missed c s.ssq).plan[s.ssq.cursor]? =
      some { e with outcome := .missed, cause := c } := by
    simp [resolveEntry, leaveDeferred, setOutcome, h7]
  have hn : (resolveEntry s.ssq.cursor .missed c s.ssq).plan[s.ssq.cursor + 1]? = some next := by
    simp [resolveEntry, leaveDeferred, setOutcome, h8]
  simp only [closeResolved, h1, h2]
  rw [closeSpot_main (s := s.modSsq (resolveEntry s.ssq.cursor .missed c)) (e := { e with outcome := .missed, cause := c })
    h1 (by rw [h2]; exact hp) h4 h5 h6 hn h9]
  obtain ⟨z, u, hv⟩ := endVisit_changes (s :=
    { s with rlk := s.rlkMissed b e c h.earlyOpen, ssq := resolveEntry s.ssq.cursor .missed c s.ssq })
  have hg : generate (.spotDone b.serial b.zoneSeq e.spotId .main .missed c (h.result.getD noCurrentResult) h.earlyOpen)
      (s.modSsq (resolveEntry s.ssq.cursor .missed c)) =
      { s with rlk := s.rlkMissed b e c h.earlyOpen, ssq := resolveEntry s.ssq.cursor .missed c s.ssq } := by
    rw [h3]; rfl
  dsimp only
  rw [hg, hv, show endFault (s.modSsq _).sgl = s.sgl from endFault_of_ne h10]
  simp [State.ssqMissed, resolveEntry, leaveDeferred, setOutcome]

/-- R91, R97, R107: the spot at the head of REVISIT is closed MISSED without current, and another follows. -/
theorem closeResolved_revisit {h : SpotInHand} {e : PlanEntry} {b : ActiveBody} {i : Nat} {rest : List Nat}
    (h1 : s.ssq.inHand = some h) (h2 : h.result = none) (h3 : s.ssq.plan[h.planIdx]? = some e)
    (h4 : s.ssq.active = some b) (h5 : s.ssq.pass = .revisit) (h6 : s.ssq.ending = false) (h7 : s.sgl.link ≠ .fault)
    (h8 : s.ssq.plan.length ≤ s.ssq.cursor) (h9 : s.ssq.deferred = h.planIdx :: i :: rest) (h10 : s.ssq.deferred.Nodup)
    (c : Cause) :
    closeResolved .missed c s =
      { endVisit { s with
          rlk := (generate (.spotDone b.serial b.zoneSeq e.spotId .revisit .missed c withoutCurrent h.earlyOpen) s).rlk,
          ssq := resolveEntry h.planIdx .missed c s.ssq } with
        ssq := { s.ssq with
          state := .awaitGun, inHand := none, deferred := i :: rest,
          plan := s.ssq.plan.set h.planIdx { e with outcome := .missed, cause := c } } } := by
  have hs : s.ssq.plan.modify h.planIdx (fun e => { e with outcome := .missed, cause := c }) =
      s.ssq.plan.set h.planIdx { e with outcome := .missed, cause := c } := by
    rw [List.modify_eq_set_getElem?, h3]; rfl
  have hd : s.ssq.deferred.filter (fun j => decide (j ≠ h.planIdx)) = i :: rest := by
    rw [h9, List.nodup_cons] at h10
    rw [h9, List.filter_cons_of_neg (by simp), List.filter_eq_self.2]
    intro a ha; simp only [decide_eq_true_eq]; rintro rfl; exact h10.1 ha
  have hq : resolveEntry h.planIdx .missed c s.ssq = { s.ssq with
      deferred := i :: rest, plan := s.ssq.plan.set h.planIdx { e with outcome := .missed, cause := c } } := by
    simp only [resolveEntry, leaveDeferred, setOutcome, hs, hd]
  have hp : (resolveEntry h.planIdx .missed c s.ssq).plan[h.planIdx]? =
      some { e with outcome := .missed, cause := c } := by
    simp [resolveEntry, leaveDeferred, setOutcome, h3]
  simp only [closeResolved, h1]
  rw [closeSpot_revisit (s := s.modSsq (resolveEntry h.planIdx .missed c)) h1 hp h4 h5 h6
    (by simpa [hq] using h8) (by simp [hq])]
  obtain ⟨z, u, hv⟩ := endVisit_changes (s := { s with
    rlk := (generate (.spotDone b.serial b.zoneSeq e.spotId .revisit .missed c withoutCurrent h.earlyOpen) s).rlk,
    ssq := resolveEntry h.planIdx .missed c s.ssq })
  have hg : generate (.spotDone b.serial b.zoneSeq e.spotId .revisit .missed c (h.result.getD noCurrentResult)
      h.earlyOpen) (s.modSsq (resolveEntry h.planIdx .missed c)) =
      { s with
        rlk := (generate (.spotDone b.serial b.zoneSeq e.spotId .revisit .missed c withoutCurrent h.earlyOpen) s).rlk,
        ssq := resolveEntry h.planIdx .missed c s.ssq } := by
    rw [h2]; rfl
  dsimp only
  rw [hg, hv, show endFault (s.modSsq _).sgl = s.sgl from endFault_of_ne h7]
  simp [hq]

/-- R117: a plan entry once EXIT or ABANDON has ended its body: MISSED EXITED where it had no final outcome. -/
def exitedEntry (e : PlanEntry) : PlanEntry :=
  if e.outcome = .pending ∨ e.outcome = .deferred then { e with outcome := .missed, cause := .exited } else e

/-- R117: with no spot in hand every entry without a final outcome is MISSED EXITED. -/
theorem missOthers_all (q : Ssq) : (missOthers none q).plan = q.plan.map exitedEntry := by
  apply List.ext_getElem?
  intro i
  simp only [missOthers, List.getElem?_mapIdx, List.getElem?_map]
  cases q.plan[i]? <;> simp [exitedEntry]

/-- R117: with the spot in hand, itself without an outcome, resolved as well, every such entry is MISSED EXITED. -/
theorem missOthers_resolved {q : Ssq} {k : Nat} {e : PlanEntry} (he : q.plan[k]? = some e)
    (ho : e.outcome = .pending ∨ e.outcome = .deferred) :
    (resolveEntry k .missed .exited (missOthers (some k) q)).plan = q.plan.map exitedEntry := by
  apply List.ext_getElem?
  intro i
  simp only [resolveEntry, leaveDeferred, setOutcome, missOthers, List.getElem?_modify, List.getElem?_mapIdx,
    List.getElem?_map]
  by_cases hi : k = i
  · subst hi; simp [he, ho, exitedEntry]
  · have hk : ¬i = k := fun h => hi h.symm
    cases q.plan[i]? <;> simp [hi, hk, exitedEntry]

/-- R109, R120: the BODY-DONE over such a plan. -/
theorem reportBody_exited {t : State} {b : ActiveBody} (hb : t.ssq.active = some b)
    (hp : t.ssq.plan = s.ssq.plan.map exitedEntry) (he : t.ssq.bodyTime = s.ssq.bodyTime) :
    reportBody false true t = generate (s.exitedReport b) t := by
  have count : ∀ p q : Outcome → Bool, (∀ o, q (if o = .pending ∨ o = .deferred then .missed else o) = p o) →
      ((s.ssq.plan.map exitedEntry).filter fun e => q e.outcome).length =
        (s.ssq.plan.filter fun e => p e.outcome).length := by
    intro p q h
    rw [← List.countP_eq_length_filter, ← List.countP_eq_length_filter, List.countP_map]
    congr 1; funext e
    rw [Function.comp, ← h e.outcome, exitedEntry]
    by_cases hc : e.outcome = .pending ∨ e.outcome = .deferred <;> simp [hc]
  have hE : t.bodyE = s.bodyE := by simp only [State.bodyE, he]
  simp only [reportBody, hb, hp, hE, outcomeCount, State.exitedReport]
  rw [count (fun o => decide (o = .good)) (fun o => decide (o = .good)) (by intro o; cases o <;> rfl),
    count (fun o => decide (o = .suspect)) (fun o => decide (o = .suspect)) (by intro o; cases o <;> rfl),
    count (fun o => decide (o = .aborted)) (fun o => decide (o = .aborted)) (by intro o; cases o <;> rfl),
    count (fun o => decide (o = .missed ∨ o = .pending ∨ o = .deferred)) (fun o => decide (o = .missed))
      (by intro o; cases o <;> rfl)]

/-- R91, R102, R120: the spot in hand of an ending body is closed MISSED EXITED: the visit ends and the body is over. -/
theorem closeResolved_exited {r : BodyRecord} {b : ActiveBody} {h : SpotInHand} {e : PlanEntry} {t : State}
    (hx : s.exitable r b h e) (hq : t.ssq = missOthers (some h.planIdx) s.ssq) (hb : t.bq.queue.tail = [])
    (hl : t.sgl.link ≠ .fault) :
    ∃ v q, t.visitEndedIn v ∧ s.ssq.idleAfter q ∧ closeResolved .missed .exited t = { t with
      zbc := v.zbc, sru := v.sru, bq := { t.bq with queue := [] }, ssq := q,
      rlk := (generate (s.exitedReport b) (generate
        (.spotDone b.serial b.zoneSeq e.spotId s.ssq.pass .missed .exited withoutCurrent h.earlyOpen) t)).rlk } := by
  obtain ⟨h1, h2, h3, h4, h5, h6, h7, h8⟩ := hx
  have hp := missOthers_resolved h4 h5
  have hplan : (resolveEntry h.planIdx .missed .exited (missOthers (some h.planIdx) s.ssq)).plan[h.planIdx]? =
      some { e with outcome := .missed, cause := .exited } := by
    rw [hp]; simp [h4, exitedEntry, h5]
  have hin : t.ssq.inHand = some h := by rw [hq]; exact h1
  simp only [closeResolved, hin]
  generalize hw : t.modSsq (resolveEntry h.planIdx .missed .exited) = w
  have w1 : w.ssq = resolveEntry h.planIdx .missed .exited (missOthers (some h.planIdx) s.ssq) := by rw [← hw, ← hq]; rfl
  have w2 : w.ssq.inHand = some h := by rw [w1]; exact h1
  have w3 : w.ssq.active = some b := by rw [w1]; exact h3
  have w4 : w.ssq.pass = s.ssq.pass := by rw [w1]; rfl
  simp only [closeSpot, w2]
  rw [reportSpot_entry (e := { e with outcome := .missed, cause := .exited }) (b := b) (by rw [w1]; exact hplan) w3, w4, h2]
  generalize hg : generate (.spotDone _ _ _ _ _ _ _ _) w = g
  have g1 : g = { w with rlk := g.rlk } := by rw [← hg]; rfl
  have hend := endVisit_ended (s := g)
  obtain ⟨z, u, hv⟩ := endVisit_changes (s := g)
  rw [hv] at hend ⊢
  refine ⟨{ g with zbc := z, sru := u }, ssqIdle s.ssq, visitEnded_congr hend (by rw [g1, ← hw]; rfl)
    (by rw [g1, ← hw]; rfl) (by rw [g1, ← hw]; rfl) (by rw [g1, ← hw]; rfl) rfl rfl, rfl, ?_⟩
  · generalize hc : (State.modSgl { g with zbc := z, sru := u } endFault).modSsq (fun q => { q with inHand := none }) = c
    have c1 : c.ssq = { w.ssq with inHand := none } := by rw [← hc, g1]; rfl
    have c2 : c.bq = t.bq := by rw [← hc, g1, ← hw]; rfl
    have hend2 : c.ssq.ending = true := by rw [c1, w1]; rfl
    have c5 : ssqIdle c.ssq = ssqIdle s.ssq := by rw [c1, w1]; rfl
    unfold afterClose; rw [if_pos hend2]
    unfold endBody
    rw [reportBody_exited (s := s) (by rw [c1]; exact w3) (by rw [c1, w1]; exact hp) (by rw [c1, w1]; rfl)]
    rw [offerQueue_empty (by show c.bq.queue.tail = []; rw [c2]; exact hb)]
    have c3 : c.sgl = t.sgl := by
      rw [← hc]; show endFault g.sgl = _
      have : g.sgl = t.sgl := by rw [g1, ← hw]; rfl
      rw [this]; exact endFault_of_ne hl
    have c4 : c = { t with zbc := z, sru := u, rlk := g.rlk, ssq := c.ssq } := by
      have : c = { t with zbc := z, sru := u, rlk := g.rlk, ssq := c.ssq, sgl := c.sgl } := by
        rw [← hc, g1, ← hw]; rfl
      rw [this, c3]
    rw [c4]
    have : g.rlk = queueReport (.spotDone b.serial b.zoneSeq e.spotId s.ssq.pass .missed .exited withoutCurrent h.earlyOpen) t.rlk := by
      rw [← hg, ← hw]; rfl
    simp only [generate, State.modRlk, State.modBq, State.modSsq, removeHead, hb, c5, this]

/-! ### EXIT and ABANDON of the active body -/

theorem missOthers_ssqExited (h : SpotInHand) : missOthers (some h.planIdx) s.ssq = s.ssqExited h.planIdx := by
  simp [missOthers, State.ssqExited]

/-- R109, R117, R120: in AWAIT_GUN the active body, the only one queued, ends at once. -/
theorem endActive_awaiting {r : BodyRecord} {b : ActiveBody} (h1 : s.ssq.state = .awaitGun) (h2 : s.bq.queue = [r])
    (h3 : s.ssq.active = some b) (h4 : s.ssq.inHand = none) (h5 : s.ssq.ending = false) :
    ∃ q, s.ssq.idleAfter q ∧
      endActive s = { generate (s.exitedReport b) s with bq := { s.bq with queue := [] }, ssq := q } := by
  refine ⟨ssqIdle s.ssq, rfl, ?_⟩
  have hr := reportBody_exited (s := s) (t := s.modSsq (missOthers none)) h3 (missOthers_all s.ssq) rfl
  simp only [endActive, h1, h4, h5, Option.map_none, endBody]
  rw [hr, offerQueue_empty (by show s.bq.queue.tail = []; rw [h2]; rfl)]
  show ({ bq := removeHead s.bq, .. } : State) = _
  rw [show removeHead s.bq = { s.bq with queue := [] } by simp [removeHead, h2]]
  rfl

/-- R91, R100, R117, R120: in SQUEEZE and in PRESTART the spot in hand is closed MISSED EXITED and the body ends. -/
theorem endActive_exited {r : BodyRecord} {b : ActiveBody} {h : SpotInHand} {e : PlanEntry} (hx : s.exitable r b h e)
    (hp : s.ssq.state = .squeeze ∨ (s.ssq.state = .firing ∧ s.cpg.phase = .prestart)) :
    s.bodyExitedIn (endActive s) b h e := by
  obtain ⟨h1, -, -, -, -, h6, h7, h8⟩ := id hx
  rcases hp with hs | ⟨hs, hc⟩
  · have e0 : endActive s = closeResolved .missed .exited (s.modSsq (missOthers (some h.planIdx))) := by
      simp only [endActive, h1, h6, hs, Option.map_some]; rfl
    obtain ⟨v, q, hv, hq, hr⟩ := closeResolved_exited hx (t := s.modSsq (missOthers (some h.planIdx))) rfl
      (by show s.bq.queue.tail = []; rw [h8]; rfl) h7
    rw [e0, hr]
    exact ⟨visitEnded_congr hv rfl rfl rfl rfl rfl rfl, hq, rfl, fun _ => ⟨rfl, rfl⟩, fun hn => by simp [hs] at hn⟩
  · have e0 : endActive s = closeResolved .missed .exited (standDown (s.modSsq (missOthers (some h.planIdx)))) := by
      simp only [endActive, h1, h6, hs, hc, Option.map_some, if_true]; rfl
    obtain ⟨v, q, hv, hq, hr⟩ := closeResolved_exited hx
      (t := standDown (s.modSsq (missOthers (some h.planIdx)))) rfl
      (by show s.bq.queue.tail = []; rw [h8]; rfl)
      (by show (leaveActive s.sgl).link ≠ .fault; rw [leaveActive_idle h7]; decide)
    rw [e0, hr]
    refine ⟨visitEnded_congr hv rfl rfl rfl rfl rfl rfl, hq, rfl, fun hn => by simp [hs] at hn, fun _ => ⟨?_, ?_⟩⟩
    · exact ⟨rfl, rfl, rfl, rfl⟩
    · exact leaveActive_stands h7

/-- R101, R117, R139: in HOLD and while an abort runs the body is ending and what runs goes on. -/
theorem endActive_kept {h : SpotInHand} (h1 : s.ssq.inHand = some h) (h2 : s.ssq.ending = false)
    (hp : s.ssq.state = .hold ∨ (s.ssq.state = .firing ∧ s.cpg.phase = .aborting)) :
    endActive s = { s with ssq := s.ssqExited h.planIdx } := by
  simp only [← missOthers_ssqExited]
  rcases hp with hs | ⟨hs, hc⟩
  · simp only [endActive, h1, h2, hs, Option.map_some]; rfl
  · simp only [endActive, h1, h2, hs, hc, Option.map_some]
    exact takeAbort_outside (by show ¬s.inCurrent; simp [State.inCurrent, hc]) _ _

/-- R117, R136, R156: in current the body is ending and an abort EXITED is ordered. -/
theorem endActive_current {h : SpotInHand} (h1 : s.ssq.inHand = some h) (h2 : s.ssq.ending = false)
    (h3 : s.ssq.state = .firing) (hc : s.inCurrent) : endActive s = { s with
      ssq := s.ssqExited h.planIdx, cpg := s.cpgAborting .exited s.settings.abortPath, wmn := s.wmnCut } := by
  have hn : s.cpg.phase ≠ .prestart := by rcases hc with h | h | h | h <;> simp [h]
  simp only [← missOthers_ssqExited, endActive, h1, h2, h3, hn, Option.map_some, if_false, orderAbort]
  rw [takeAbort_inCurrent (by exact hc)]; rfl

/-! ### The end of a zone hold -/

/-- R33, R44: what a cancelled request leaves of the claim. -/
theorem cancelRequest_sru : (cancelRequest s).sru = { s.sru with
    request := none, record := (cancelRequest s).sru.record, withdrawn := (cancelRequest s).sru.withdrawn,
    claim := match s.sru.claim with
      | .none => .none
      | .waiting => .none
      | .offered => .offered
      | .granted => .releasing
      | .releasing => .releasing } ∧ (s.sru.claim = .offered → (cancelRequest s).sru.withdrawn = true) := by
  have void : (voidClaimChoice s).sru = { s.sru with record := (voidClaimChoice s).sru.record } := by
    unfold voidClaimChoice voidChoice; split
    · split <;> rfl
    · rfl
  cases h : s.sru.claim
  · simp only [cancelRequest, h, State.modSru_sru]
    exact ⟨trivial, fun n => nomatch n⟩
  · simp only [cancelRequest, h, State.modSru_sru]
    exact ⟨by rw [void], fun h => absurd h (by simp)⟩
  · simp only [cancelRequest, h, State.modSru_sru]
    exact ⟨trivial, fun _ => trivial⟩
  · simp only [cancelRequest, h]
    have hs := (releaseOrder_sru (s := s.modSru fun u => { u with request := none })) h
    exact ⟨by rw [hs]; rfl, fun h => absurd h (by simp)⟩
  · simp only [cancelRequest, h, State.modSru_sru]
    exact ⟨trivial, fun n => nomatch n⟩

/-- R33, R44, R114: what the end of a zone hold leaves of claim and sequencer. -/
theorem holdCleared_ended : s.holdEndedIn (holdCleared s) := by
  refine ⟨fun hn => ?_, fun h e hs hi he => ?_⟩
  · unfold holdCleared; rw [if_neg hn]
    obtain ⟨z, u, hv⟩ := callArbitration_changes (s := s)
    exact ⟨by rw [hv], callArbitration_keeps.2⟩
  · intro full
    have hp : s.planSchedule h.planIdx = scheduleOf s.pst e.sched := by simp only [State.planSchedule, he]
    have hc : holdCleared s = callArbitration (if s.leadUs < full ∧ s.sru.request.isSome then
        cancelRequest (s.modSsq fun q => { q with inHand := some { h with squeezeLeft := full } })
      else s.modSsq fun q => { q with inHand := some { h with squeezeLeft := full } }) := by
      unfold holdCleared; rw [if_pos hs, hi]; simp only [hp]; rfl
    generalize hw : (s.modSsq fun q => { q with inHand := some { h with squeezeLeft := full } }) = w at hc
    have hws : w.sru = s.sru := by rw [← hw]; rfl
    rw [hc]
    refine ⟨?_, fun hl => ?_, fun hl hr => ?_⟩
    · split
      · obtain ⟨z, u, hv⟩ := zbcSru_trans (cancelRequest_changes (s := w)) callArbitration_changes
        rw [hv, ← hw]; rfl
      · obtain ⟨z, u, hv⟩ := callArbitration_changes (s := w)
        rw [hv, ← hw]; rfl
    · rw [if_neg (by rintro ⟨a, b⟩; rcases hl with h | h; exact absurd a (Nat.not_lt.2 h); simp [h] at b)]
      have := callArbitration_keeps (s := w); rw [hws] at this; exact this.2
    · rw [if_pos ⟨hl, hr⟩]
      obtain ⟨h1, h2⟩ := cancelRequest_sru (s := w)
      have h3 := callArbitration_keeps (s := cancelRequest w)
      rw [hws] at h1 h2
      have h4 := congrArg Sru.withdrawn h3.2
      refine ⟨?_, fun ho => h4.trans (h2 ho)⟩
      rw [h4, h3.2, h1] <;> cases s.sru.claim <;> rfl

/-! ### The end of current -/

/-- R91: the closing of a spot whose claim is NONE or RELEASING leaves the slots and the claim state alone. -/
theorem closeSpot_unclaimed (h : s.sru.claim = .none ∨ s.sru.claim = .releasing) :
    (closeSpot s).zbc = s.zbc ∧ (closeSpot s).sru.claim = s.sru.claim := by
  unfold closeSpot; split
  · exact ⟨rfl, rfl⟩
  · rename_i i _
    dsimp only
    obtain ⟨k, e⟩ := reportSpot_changes (s := s) i.planIdx (i.result.getD noCurrentResult) i.earlyOpen
    rw [e, endVisit_unclaimed (s := { s with rlk := k }) h]
    obtain ⟨_, _, _, e⟩ := afterClose_changes (s := (State.modSgl { s with
      rlk := k, sru := s.sru.visitOver s.sru.claim } endFault).modSsq fun q => { q with inHand := none })
    rw [e]; exact ⟨rfl, rfl⟩

theorem enterHold_unclaimed (holdMs : Nat) (h : s.sru.claim = .none ∨ s.sru.claim = .releasing) :
    (enterHold holdMs s).zbc = s.zbc ∧ (enterHold holdMs s).sru.claim = s.sru.claim := by
  unfold enterHold; dsimp only; split
  · split
    · exact closeSpot_unclaimed h
    · exact ⟨rfl, rfl⟩
  · exact ⟨rfl, rfl⟩

/-- R45, R135, R140: current end orders the release of a GRANTED claim. -/
theorem currentEnd_released {r : Row} (hg : s.sru.claim = .granted) (hr : s.ownRow = some r) :
    s.releasedIn (currentEnd s) r := by
  obtain ⟨h1, h2⟩ := releaseOrder_released hg hr
  unfold currentEnd; split
  · exact h1
  · dsimp only
    rename_i h _
    generalize hv : (releaseOrder s).modSsq (fun q => { resolveEntry h.planIdx
      (outcomeAtEnd s.cpg.abort s.wmn.worst).1 (outcomeAtEnd s.cpg.abort s.wmn.worst).2 q with
      inHand := some { h with result := some s.spotResult } }) = v
    have hvc : v.sru.claim = .releasing := by rw [← hv]; exact h1.1
    have hvz : v.zbc = (releaseOrder s).zbc := by rw [← hv]; rfl
    generalize ht : standDown (endVisit v) = t
    rw [endVisit_unclaimed (.inr hvc)] at ht
    have hz : t.zbc = (releaseOrder s).zbc := by rw [← ht]; exact hvz
    have hc : t.sru.claim = .releasing := by rw [← ht]; exact hvc
    obtain ⟨a, b⟩ := enterHold_unclaimed (s := t) (s.planSchedule h.planIdx).hold (.inr hc)
    exact ⟨b.trans hc, fun hn => by rw [a, hz]; exact h1.2.1 hn, fun hn => by rw [a, hz]; exact h1.2.2 hn⟩

theorem enterHold_idle (holdMs : Nat) (h : s.sgl.link = .idle) : (enterHold holdMs s).sgl.link = .idle := by
  have key : ∀ t : State, t.sgl = s.sgl → (closeSpot t).sgl.link = .idle := by
    intro t ht
    rcases closeSpot_link (s := t) with e | e <;> rw [e, ht]
    · exact h
    · rw [endFault_of_ne (by simp [h])]; exact h
  unfold enterHold; dsimp only
  split
  · split
    · exact key _ rfl
    · exact h
  · exact h

theorem enterHold_wmn (holdMs : Nat) : (enterHold holdMs s).wmn = s.wmn := by
  have key : ∀ t : State, t.wmn = s.wmn → (closeSpot t).wmn = s.wmn := by
    intro t ht
    obtain ⟨_, _, _, _, _, _, e⟩ := closeSpot_changes (s := t)
    rw [e]; exact ht
  unfold enterHold; dsimp only
  split
  · split
    · exact key _ rfl
    · rfl
  · rfl

/-- R135, R159: current end leaves the monitor's results as they are. -/
theorem currentEnd_wmn : (currentEnd s).wmn = s.wmn := by
  unfold currentEnd
  obtain ⟨z, u, er⟩ := releaseOrder_changes (s := s)
  split
  · rw [er]; rfl
  · dsimp only
    rw [er, enterHold_wmn]
    generalize hv : State.modSsq { s with zbc := z, sru := u } _ = v
    obtain ⟨_, _, e⟩ := endVisit_changes (s := v)
    rw [e, ← hv]; rfl

/-- R148: current end leaves the stage link IDLE, unless it is in FAULT. -/
theorem currentEnd_idle (h : s.sgl.link ≠ .fault) : (currentEnd s).sgl.link = .idle := by
  unfold currentEnd
  obtain ⟨z, u, er⟩ := releaseOrder_changes (s := s)
  split
  · rw [er]; exact leaveActive_idle h
  · rename_i i _
    dsimp only
    rw [er]
    obtain ⟨z2, u2, e2⟩ := endVisit_changes (s := State.modSsq { s with zbc := z, sru := u } fun q =>
      { resolveEntry i.planIdx (outcomeAtEnd s.cpg.abort s.wmn.worst).1 (outcomeAtEnd s.cpg.abort s.wmn.worst).2 q with
        inHand := some { i with result := some s.spotResult } })
    rw [e2]
    exact enterHold_idle _ (leaveActive_idle h)

/-- R99, R101, R135: current end with a hold time and no early open: the spot is resolved with its result and HOLD
runs. -/
theorem currentEnd_hold {h : SpotInHand} {e : PlanEntry} (h1 : s.ssq.inHand = some h) (h2 : h.earlyOpen = false)
    (h3 : s.ssq.plan[h.planIdx]? = some e) (h4 : 0 < (scheduleOf s.pst e.sched).hold) :
    ∃ z u, u.request = none ∧ u.waitTimer = none ∧ currentEnd s = { standDown s with
      zbc := z, sru := u,
      ssq := { resolveEntry h.planIdx (outcomeAtEnd s.cpg.abort s.wmn.worst).1
          (outcomeAtEnd s.cpg.abort s.wmn.worst).2 s.ssq with
        state := .hold,
        inHand := some { h with
          holdLeft := (scheduleOf s.pst e.sched).hold * 1000, result := some s.spotResult } } } := by
  unfold currentEnd
  obtain ⟨z, u, er⟩ := releaseOrder_changes (s := s)
  have hpl : s.planSchedule h.planIdx = scheduleOf s.pst e.sched := by simp only [State.planSchedule, h3]
  rw [h1]; dsimp only
  rw [hpl, er]
  generalize hv : State.modSsq { s with zbc := z, sru := u } _ = v
  obtain ⟨z2, u2, e2⟩ := endVisit_changes (s := v)
  have hq : u2.request = none ∧ u2.waitTimer = none := by
    have := endVisit_request (s := v); rw [e2] at this; exact this
  rw [e2, ← hv]
  refine ⟨z2, u2, hq.1, hq.2, ?_⟩
  unfold enterHold; dsimp only [standDown, State.modSsq, State.modCpg, State.modSgl, Option.map]
  rw [if_neg]
  · rfl
  · rw [h2]; simp [Config.usPerMs]; omega

end Sys2Proof.Machine
end

