-- ==== Sys2Proof/Laws/Frames.lean ====
section
/-! SUPPORT. Zone bus frames as bits: the receiver's removal undoes the sender's insertion, and reading a field, a
payload or a frame undoes writing it. -/

namespace Sys2Proof.Machine

/-! ### Bit insertion -/

/-- R4: what a receiver removes is what the sender inserted. -/
theorem removeBits_insertBits (l : List Bool) (lvl : Bool) (run : Nat) (hr : run < 7) :
    removeBits lvl run false (insertBits lvl run l) = some l := by
  induction l generalizing lvl run with
  | nil => simp [insertBits, removeBits]
  | cons b t ih =>
    simp only [insertBits]
    by_cases h7 : (if b = lvl then run + 1 else 1) = 7
    · rw [if_pos h7]; simp [removeBits, h7, ih (!b) 1 (by omega)]
    · rw [if_neg h7]
      have hlt : (if b = lvl then run + 1 else 1) < 7 := by split at h7 <;> simp_all; omega
      have e : ((if b = lvl then run + 1 else 1) == 7) = false := by simpa using h7
      simp only [removeBits, e, ih _ _ hlt]; simp

/-! ### Numbers as bits -/

theorem bitsOf_length (w : Nat) (x : BitVec w) : (bitsOf w x).length = w := by simp [bitsOf]

theorem natOfBits_foldl (l : List Bool) (n : Nat) :
    l.foldl (fun n b => 2 * n + b.toNat) n = n * 2 ^ l.length + natOfBits l := by
  unfold natOfBits
  induction l generalizing n with
  | nil => simp
  | cons b t ih =>
    simp only [List.foldl_cons, List.length_cons]
    rw [ih, ih (2 * 0 + b.toNat)]; ring

theorem natOfBits_cons (b : Bool) (t : List Bool) : natOfBits (b :: t) = b.toNat * 2 ^ t.length + natOfBits t := by
  conv_lhs => unfold natOfBits
  rw [List.foldl_cons, natOfBits_foldl]; simp

theorem natOfBits_append (a b : List Bool) : natOfBits (a ++ b) = natOfBits a * 2 ^ b.length + natOfBits b := by
  conv_lhs => unfold natOfBits
  rw [List.foldl_append, natOfBits_foldl]; rfl

/-- The number of the low `w` bits of `n`, most significant first. -/
theorem natOfBits_range (n w : Nat) : natOfBits ((List.range w).map fun i => n.testBit (w - 1 - i)) = n % 2 ^ w := by
  induction w generalizing n with
  | zero => simp [natOfBits]; omega
  | succ w ih =>
    rw [List.range_succ, List.map_append, natOfBits_append]
    have e : (List.range w).map (fun i => n.testBit (w + 1 - 1 - i)) =
        (List.range w).map (fun i => (n / 2).testBit (w - 1 - i)) := by
      refine List.map_congr_left fun i hi => ?_
      rw [List.mem_range] at hi
      rw [Nat.testBit_div_two]; congr 1; omega
    rw [e, ih]
    simp [natOfBits, Nat.testBit_zero]
    rw [Nat.pow_succ, Nat.mul_comm (2 ^ w) 2, Nat.mod_mul]
    rcases Nat.mod_two_eq_zero_or_one n with h | h <;> simp [h] <;> omega

theorem natOfBits_bitsOf (w : Nat) (x : BitVec w) : natOfBits (bitsOf w x) = x.toNat :=
  (natOfBits_range x.toNat w).trans (Nat.mod_eq_of_lt x.isLt)

/-- R3: a field reads back from its bits. -/
theorem fieldOf_bitsOf (w : Nat) (x : BitVec w) : fieldOf w (bitsOf w x) = x := by
  simp [fieldOf, natOfBits_bitsOf]

/-! ### Payloads and frames -/

/-- R190: a payload has the length of its kind. -/
theorem payload_length (b : FrameBody) : (payloadBits b).length = payloadLength (kindCode b) := by
  cases b <;> simp [payloadBits, payloadLength, kindCode, bitsOf_length]
  rename_i k; fin_cases k <;> rfl

theorem kindCode_lt (b : FrameBody) : kindCode b < 16 := by
  cases b <;> simp [kindCode]
  rename_i k; omega

/-- R190: kind and payload read back from their bits. -/
theorem bodyOf_payload (b : FrameBody) : bodyOf (kindCode b) (payloadBits b) = b := by
  cases b <;> simp [kindCode, payloadBits]
  all_goals try simp [bodyOf, fieldOf_bitsOf, List.drop_append, bitsOf_length, List.take_of_length_le,
    List.drop_of_length_le]
  rename_i k
  fin_cases k <;> rfl

/-- R3, R5: what a receiver reads from the bits of a frame without its inserted bits. -/
theorem readPlain_plainBits (f : Frame) : readPlain (plainBits f) = .good f := by
  have hk := kindCode_lt f.body
  have hl : (checkedBits f).length = 13 + payloadLength (kindCode f.body) := by
    simp [checkedBits, arbBits, bitsOf_length, payload_length]; omega
  have h4 : ((checkedBits f ++ bitsOf 16 (crc16 (checkedBits f))).drop 9).take 4 =
      bitsOf 4 (BitVec.ofNat 4 (kindCode f.body)) := by
    simp [checkedBits, arbBits, List.drop_append, bitsOf_length, List.drop_of_length_le]
  have hkind : natOfBits (((checkedBits f ++ bitsOf 16 (crc16 (checkedBits f))).drop 9).take 4) = kindCode f.body := by
    rw [h4, natOfBits_bitsOf]; simp; omega
  have hp : ((checkedBits f ++ bitsOf 16 (crc16 (checkedBits f))).drop 13).take (payloadLength (kindCode f.body)) =
      payloadBits f.body := by
    rw [← payload_length]
    simp [checkedBits, arbBits, List.drop_append, bitsOf_length, List.drop_of_length_le]
  unfold plainBits readPlain
  simp only [hkind]
  rw [if_neg (by simp [hl, bitsOf_length]), List.take_append_of_le_length (by omega), List.take_of_length_le (by omega),
    List.drop_append_of_le_length (by omega), List.drop_of_length_le (by omega), if_neg (by simp), hp, bodyOf_payload]
  congr 1
  obtain ⟨⟨p, sd⟩, b⟩ := f
  congr 1
  simp [checkedBits, arbBits, bitsOf_length, fieldOf_bitsOf]

end Sys2Proof.Machine
end

