-- ==== Sys2Proof/Tests/Slice0.lean ====
section
/-! SUPPORT. Our own tests. First the operands each check of WellFormed refuses; then the spec's worked examples,
whose expected values are the spec's; then, for every statement with hypotheses, a state and operands that meet them. -/

namespace Sys2Proof.Tests

open Machine

-- One test after the other: side by side, their evaluations take more threads than a check may start.
set_option Elab.async false

/-! ### WellFormed refuses -/

/-- A sender id 0 is no sender (R10). -/
def noSender : ArbField := { prec := 8, sender := 0 }
/-- Node 3 with precedence 8. -/
def from3 : ArbField := { prec := 8, sender := 3 }

theorem test_wf_block_read : (Instr.blockRead []).wellFormed = false ∧
    (Instr.blockRead (List.replicate 257 0)).wellFormed = false ∧
    (Instr.blockRead (List.replicate 256 0)).wellFormed = true := by decide +kernel

theorem test_wf_image_read_complete : (Instr.imageReadComplete (List.replicate 256 0)).wellFormed = false ∧
    (Instr.imageReadComplete []).wellFormed = true := by decide +kernel

theorem test_wf_invalid_frame : (Instr.invalidFrame ⟨from3, .resume⟩).wellFormed = false ∧
    (Instr.invalidFrame ⟨from3, .reserved 0⟩).wellFormed = true := by decide

theorem test_wf_own_id_frame : (Instr.ownIdFrame ⟨from3, .reserved 8⟩).wellFormed = false ∧
    (Instr.ownIdFrame ⟨from3, .resume⟩).wellFormed = true := by decide

theorem test_wf_sender_zero : (Instr.haltFrame noSender 5).wellFormed = false ∧
    (Instr.resumeFrame noSender).wellFormed = false ∧ (Instr.derateFrame noSender 1 80).wellFormed = false := by decide

theorem test_wf_serial_zero : (Instr.bodyFrame from3 0 1 0 61).wellFormed = false ∧
    (Instr.exitFrame from3 0).wellFormed = false ∧ (Instr.exitFrame from3 1).wellFormed = true := by decide

theorem test_wf_claim_ranges : (Instr.claimFrame from3 1 0 156 61 214).wellFormed = false ∧
    (Instr.claimFrame from3 1 22 0 61 214).wellFormed = false ∧
    (Instr.claimFrame from3 1 22 156 61 0).wellFormed = false ∧
    (Instr.claimFrame from3 1 22 156 61 1000).wellFormed = false ∧
    (Instr.claimFrame from3 1 1 1 61 999).wellFormed = true := by decide

theorem test_wf_release_spot : (Instr.releaseFrame from3 1 0).wellFormed = false ∧
    (Instr.releaseFrame from3 1 1000).wellFormed = false ∧ (Instr.releaseFrame from3 1 999).wellFormed = true := by decide

theorem test_wf_row_lapse : (Instr.rowLapse 0).wellFormed = false ∧ (Instr.rowLapse 31).wellFormed = true := by decide

theorem test_wf_command_kind : (Instr.commandKindRefused 8 0).wellFormed = false ∧
    (Instr.commandKindRefused 9 0).wellFormed = true := by decide

theorem test_wf_cut_short : (Instr.cutShortTransaction [0x30, 0, 0]).wellFormed = false ∧
    (Instr.cutShortTransaction [0x30, 0]).wellFormed = true ∧ (Instr.cutShortTransaction []).wellFormed = true := by
  decide

/-! ### Worked examples of the spec -/

/-- R3: the check of the nine characters "123456789" is 0x29B1. -/
theorem test_crc16_check_value :
    crc16 ([0x31#8, 0x32#8, 0x33#8, 0x34#8, 0x35#8, 0x36#8, 0x37#8, 0x38#8, 0x39#8].flatMap (bitsOf 8)) = 0x29B1#16 := by
  decide +kernel

/-- R182: the check of the nine characters "123456789" is 0xCBF43926. -/
theorem test_crc32_check_value :
    crc32 [0x31#8, 0x32#8, 0x33#8, 0x34#8, 0x35#8, 0x36#8, 0x37#8, 0x38#8, 0x39#8] = 0xCBF43926#32 := by
  decide +kernel

/-- Schedule 10 of section 4.5. -/
def schedule10 : Schedule :=
  { mark := .usable, level := 900, load := 16, squeeze := 150, upslope := 0, shape := 0, pulses := 1, pulse := 200,
    cool := 0, downslope := 0, endPercent := 0, hold := 80, windowLow := 85, windowHigh := 115, blank := 8,
    action := 0, retry := 0 }

/-- Schedule 11 of section 4.5. -/
def schedule11 : Schedule :=
  { mark := .unusable, level := 1200, load := 24, squeeze := 200, upslope := 10, shape := 1, pulses := 3,
    pulse := 100, cool := 20, downslope := 20, endPercent := 40, hold := 100, windowLow := 90, windowHigh := 110,
    blank := 16, action := 1, retry := 1 }

/-- Schedule 12 of section 4.5. -/
def schedule12 : Schedule :=
  { mark := .usable, level := 1050, load := 20, squeeze := 180, upslope := 6, shape := 0, pulses := 2, pulse := 80,
    cool := 20, downslope := 10, endPercent := 50, hold := 60, windowLow := 90, windowHigh := 110, blank := 16,
    action := 1, retry := 1 }

/-- Schedule 14 of section 4.5. -/
def schedule14 : Schedule :=
  { mark := .usable, level := 980, load := 18, squeeze := 160, upslope := 10, shape := 0, pulses := 2, pulse := 120,
    cool := 20, downslope := 30, endPercent := 60, hold := 80, windowLow := 90, windowHigh := 110, blank := 24,
    action := 1, retry := 1 }

/-- Section 4.5: D, X and mark of the four schedules. -/
theorem test_schedule_durations_and_marks :
    [schedule10, schedule11, schedule12, schedule14].map (fun c => (profileMs c, reserveMs c, scheduleMark 1 c)) =
      [(200, 0, .usable), (370, 120, .unusable), (196, 100, .usable), (300, 140, .usable)] := by decide

/-- R36, R82: X of a row is cool + pulse with retry enabled, and 0 with any other retry code, UNUSABLE rows included. -/
theorem test_reserve_of_a_row :
    (scheduleContent schedule11).drop 23 = [0, 120] ∧ (scheduleContent { schedule11 with retry := 0 }).drop 23 = [0, 0] ∧
    (scheduleContent { schedule11 with retry := 2 }).drop 23 = [0, 0] ∧
    (scheduleContent { schedule11 with retry := 255 }).drop 23 = [0, 0] := by decide

/-- The store of node 9: program 3 of section 4.3, the schedules of section 4.5, the bands of section 4.7. Style 1
selects program 3, style 0 and style 2 none. -/
def store9 : Pst :=
  { styleMap := [none, some 3],
    programs := List.replicate 3 absentProgram ++ [{ mark := .usable, first := 100, count := 5 }],
    records := List.replicate 100 emptyRecord ++
      [{ spotId := 301, sched := 12, mask := 0, expect := 0 }, { spotId := 302, sched := 12, mask := 1, expect := 1 },
       { spotId := 303, sched := 10, mask := 1, expect := 0 }, { spotId := 304, sched := 11, mask := 12, expect := 4 },
       { spotId := 305, sched := 12, mask := 2, expect := 18 }],
    schedules := List.replicate 10 absentSchedule ++ [schedule10, schedule11, schedule12, absentSchedule, schedule14],
    bands := [{ threshold := 0, boost := 0 }, { threshold := 500, boost := 3 }, { threshold := 1000, boost := 6 },
              { threshold := 1500, boost := 9 }],
    dressLimit := 1800 }

/-- Section 4.3: the spot lists of the three bodies. -/
theorem test_spot_lists_of_program_3 :
    [0x05#8, 0x08#8, 0xFF#8].map (fun o => (spotList store9 3 o).map fun i => (recordOf store9 i).spotId) =
      [[301, 302, 304], [301, 303], [301, 302]] := by decide +kernel

/-- Section 4.7: boost, boosted load and boosted target by the weld count; and the two saturations. -/
theorem test_boost_table :
    [0, 499, 500, 1250, 1800, 65535].map (fun w =>
      (boostOf store9 w, boostedLoad 20 (boostOf store9 w), boostedTarget 1050 (boostOf store9 w))) =
      [(0, 20, 1050), (0, 20, 1050), (3, 21, 1081), (6, 22, 1113), (9, 22, 1144), (9, 22, 1144)] ∧
    boostedTarget 4000 30 = 4095 ∧ boostedLoad 50 30 = 63 := by decide

/-- Section 5.8: the learned move time of spot 806 and its late threshold at margin 32. -/
theorem test_learned_move_times :
    learnMove 0 412 = 412 ∧ learnMove 412 380 = 404 ∧ learnMove 404 405 = 404 ∧ learnMove 404 3000 = 1053 ∧
    [412, 404, 1053].map (lateThreshold · 32) = [515, 505, 1316] := by decide

/-- Section 3.6: the base pitch of node 9. -/
theorem test_base_pitch : meanPitch [5600, 5310, 5520, 5400] 4 = 5457 := by decide

/-- Section 6.4: both upslopes of G 1113 over 12 updates. -/
theorem test_upslopes :
    (List.range 12).map (fun k => upslopeSetpoint 0 1113 12 (k + 1) 0) =
      [92, 185, 278, 371, 463, 556, 649, 742, 834, 927, 1020, 1113] ∧
    ((List.range 12).foldl (fun l k => l ++ [upslopeSetpoint 1 1113 12 (k + 1) (l.getLastD 0)]) []) =
      [140, 262, 369, 462, 544, 616, 679, 734, 782, 824, 861, 1113] := by decide

/-- Sections 6.6 and 6.12: the downslope of schedule 12 and the RAMP path from 1113. -/
theorem test_downslope_and_ramp :
    [1, 2, 5, 10, 15, 19, 20].map (downslopeSetpoint 1113 50 20) = [1086, 1058, 974, 835, 696, 584, 556] ∧
    [1, 2, 3, 4, 5, 6, 7, 8].map (rampSetpoint 1113) = [974, 835, 696, 557, 418, 279, 140, 0] := by decide

/-- Section 7.3: the window of schedule 12 at G 1113. -/
theorem test_pulse_window :
    let m := startPulseRecord 1 1113 schedule12 Wmn.reset
    m.noneBelow = 139 ∧ m.lowBelow = 1001 ∧ m.highAbove = 1225 ∧ m.len = 160 ∧ m.blank = 20 := by decide

/-- Section 7.3: the three pulses of spot 214, and the high pulse and the pulse with no current beside them. -/
theorem test_pulse_results :
    let m := startPulseRecord 1 1113 schedule12 Wmn.reset
    let p1 := judgePulse 2 { m with iSum := 155652, vSum := 15428, judged := 140 }
    let p2 := judgePulse 2 { startPulseRecord 2 1113 schedule12 p1 with iSum := 137724, vSum := 14766, judged := 138 }
    let p3 := judgePulse 2 { startPulseRecord 3 1113 schedule12 p2 with iSum := 148400, vSum := 14980, judged := 140 }
    (p1.worst, p1.lastMean, p1.lastRes) = (.ok, 1111, 99) ∧ (p2.worst, p2.lastMean, p2.lastRes) = (.low, 998, 107) ∧
    (p3.worst, p3.lastMean, p3.lastRes) = (.ok, 1060, 100) ∧
    pulseJudgement { m with iSum := 172200, judged := 140 } = .high ∧
    pulseJudgement { m with iSum := 840, vSum := 126000, judged := 140 } = .none ∧
    pulseResistance { m with iSum := 840, vSum := 126000, judged := 140 } = 65535 := by decide +kernel

/-- Section 10.1: the fields of the CLAIM of spot 214 before its check. -/
def claim214 : Frame := ⟨{ prec := 8, sender := 9 }, .claim 1 22 156 61 214⟩

theorem test_claim_bits :
    (plainBits claim214).take 48 = [false, true, false, false, false, false, true, false, false, true,
      false, true, false, true, false, true, false, true, false, true, true, false,
      true, false, false, true, true, true, false, false, false, false, true, true, true, true, false, true,
      false, false, true, true, false, true, false, true, true, false] ∧
    readFrame (lineBits claim214) = .good claim214 := by decide +kernel

/-- Section 1.2: nodes 3, 7 and 9 at one idle point; node 9's RELEASE wins, and of the two CLAIMs node 3's. -/
theorem test_arbitration_of_three_nodes :
    let a9 := arbBits { prec := 2, sender := 9 }
    let a3 := arbBits { prec := 8, sender := 3 }
    let a7 := arbBits { prec := 8, sender := 7 }
    wiredAnd a9 (wiredAnd (a3.take 1) (a7.take 1) ++ List.replicate 8 true) = a9 ∧
    keepsLine (a3.take 1) (a9.take 1) = false ∧ keepsLine (a7.take 1) (a9.take 1) = false ∧
    keepsLine a3 (wiredAnd a3 a7) = true ∧ keepsLine (a7.take 6) (wiredAnd (a3.take 6) (a7.take 6)) = true ∧
    keepsLine (a7.take 7) (wiredAnd (a3.take 7) (a7.take 7)) = false := by decide +kernel

/-- Section 10.4: the SPOT-DONE record of spot 214. -/
theorem test_spot_done_record :
    reportRecord (some ⟨73, .spotDone 7010 61 214 .main .good .none
        { worst := .ok, mean := 1060, res := 100, pulses := 3, ext := true } false⟩) =
      [2, 73, 0x00, 0x1B, 0x62, 61, 0x00, 0xD6, 0, 2, 0, 0, 0x04, 0x24, 0x00, 0x64, 3, 1, 0, 0, 0, 0, 0, 0] := by
  decide +kernel

/-! ### Node 9 of sections 2.15, 4.5 and 6.8 -/

/-- The settings of node 9; the abort path is the RAMP of section 6.12. -/
def settings9 : Settings :=
  { ownId := 9, role := 3, bitRate := some .kbit500, feeder := 1, feederLimit := 100, countLimit := 4, avgN := 4,
    claimLead := 40, claimWaitLimit := 300, lateMargin := 32, abortPath := .ramp }

/-- A plan of 40 spots 204..243 with schedule 12, the first ten GOOD: spot 214 is the eleventh. -/
def plan40 : List PlanEntry :=
  (List.range 40).map fun i =>
    { recIdx := i, spotId := 204 + i, sched := 12, outcome := if i < 10 then .good else .pending, cause := .none }

/-- The table of section 2.15. -/
def table9 : Plt :=
  { rows := ((((List.replicate 31 none).set 3 (some ⟨1, 18, 12000, 4, 118, 9⟩)).set 5
        (some ⟨1, 20, 182000, 6, 302, 7⟩)).set 10 (some ⟨1, 18, 247000, 11, 45, 10⟩)).set 14
        (some ⟨2, 30, 132000, 15, 77, 6⟩),
    derate := 80 }

/-- Body 7010 at the head. -/
def body7010 : BodyRecord :=
  { serial := 7010, style := 1, options := 0, zoneSeq := 61, arrival := 0, exitTaken := false }

/-- Node 9 in RUN on an idle line, waiting for spot 214 of body 7010. -/
def node9 : State :=
  { State.reset with
    zbc := { Zbc.reset with node := .run, line := .idle, synced := true }
    plt := table9
    bq := { Bq.reset with
      queue := [body7010], arrivalNext := 1, lastSeq := some 61, pitchTimer := some 30000000,
      history := [5600, 5310, 5520, 5400, 1, 1, 1, 1], basePitch := 5457 }
    pst := store9
    settings := settings9
    ssq := { Ssq.reset with
      state := .awaitGun, active := some { serial := 7010, zoneSeq := 61, style := 1, options := 0, program := some 3 },
      plan := plan40, cursor := 10, bodyTime := 27000000, moveTimer := 4123000, moveOpen := true }
    cpg := { Cpg.reset with w := 1250 }
    iml := { Iml.reset with phase := .good, blocks := 7 } }

/-- Spot 214 in hand with this much squeeze left. -/
def hand (squeezeLeft holdLeft : Nat) (res : Option SpotResult) : SpotInHand :=
  { planIdx := 10, squeezeLeft := squeezeLeft, holdLeft := holdLeft, earlyOpen := false, result := res }

/-- Node 9 with spot 214 in SQUEEZE and no request yet. -/
def squeezing (left : Nat) : State :=
  { node9 with ssq := { node9.ssq with state := .squeeze, moveOpen := false, inHand := some (hand left 0 none) } }

/-- The request for spot 214. -/
def request214 : Request := { planIdx := 10, spotId := 214, sched := 12, pass := .main, zoneSeq := 61, visit := 0 }

/-- Node 9 with 12 ms of squeeze left and its claim WAITING for 28 ms. -/
def waiting : State :=
  { squeezing 12000 with
    sru := { Sru.reset with
      claim := .waiting, request := some request214, waitTimer := some 28000, visitRequested := true } }

/-- Section 2.15: the evaluation of the claim of spot 214. -/
theorem test_claim_of_spot_214 :
    (callArbitration waiting).sru.record = some {
      feeder := 1, load := 22, lapse := 156, zoneSeq := 61, spotId := 214, prec := 8, boost := 6 } ∧
    (callArbitration waiting).zbc.claimSlot = some claim214 := by decide +kernel

/-- The claim of spot 214 on the wire. -/
def offered : State := sendStart (callArbitration waiting)

/-- Section 2.15: the claim completes with 312 ms in the own row and the timer stopped at 28 ms. -/
theorem test_grant_of_spot_214 :
    (ownCompleted true offered).ownRow = some ⟨1, 22, 312000, 61, 214, 8⟩ ∧
    (ownCompleted true offered).sru.claim = .granted ∧
    (ownCompleted true offered).sru.waitTimer = some 28000 := by decide +kernel

/-- The claim of spot 214 GRANTED, with this much squeeze left. -/
def granted (left : Nat) : State :=
  let s := ownCompleted true offered
  { s with ssq := { s.ssq with inHand := some (hand left 0 none) } }

/-- Node 9 after entry to FIRING for spot 214, its first update answered READY and the next due. -/
def fired : State :=
  let s := fireIfReady (granted 0)
  { s with sgl := { s.sgl with answered := true, status := some ⟨true, false, false⟩, updateIn := 0 } }

/-- Section 6.8: update 1 begins the current with 92, and W goes to 1251. -/
theorem test_current_of_spot_214_begins :
    (updateStage fired).cpg.phase = .upslope ∧ (updateStage fired).cpg.setpoint = 92 ∧
    (updateStage fired).cpg.w = 1251 ∧ (updateStage fired).cpg.g = 1113 := by decide +kernel

/-- The current of spot 214 in a phase, this many updates of it sent, and the next due. -/
def inPhase (p : Phase) (count : Nat) : State :=
  { fired with cpg := { fired.cpg with phase := p, count := count, setpoint := 1113, pulseIdx := 1, begun := true } }

/-- The plan entries of spots 214 and 215, and the active body. -/
def entry214 : PlanEntry := { recIdx := 10, spotId := 214, sched := 12, outcome := .pending, cause := .none }
def entry215 : PlanEntry := { recIdx := 11, spotId := 215, sched := 12, outcome := .pending, cause := .none }
def active7010 : ActiveBody := { serial := 7010, zoneSeq := 61, style := 1, options := 0, program := some 3 }

/-- Spot 214 in REVISIT, with these spots deferred. -/
def revisiting (s : State) (deferred : List Nat) : State :=
  { s with ssq := { s.ssq with pass := .revisit, cursor := 40, deferred := deferred, moveOpen := false } }

/-- The node in another operating state. -/
def inNode (n : NodeState) (s : State) : State := { s with zbc := { s.zbc with node := n } }

theorem midPlan_met : (squeezing 12000).midPlan (hand 12000 0 none) entry214 entry215 active7010 ∧
    (granted 0).midPlan (hand 0 0 none) entry214 entry215 active7010 ∧
    fired.midPlan (hand 0 0 none) entry214 entry215 active7010 := by
  unfold State.midPlan; decide +kernel

theorem inCurrent_met : (inPhase .upslope 5).inCurrent ∧ (inPhase .pulse 5).inCurrent ∧ (inPhase .cool 5).inCurrent ∧
    (inPhase .downslope 5).inCurrent ∧ ¬(inPhase .aborting 5).inCurrent := by
  unfold State.inCurrent; decide +kernel

/-- The queue of section 3.4, head first, at node 9. -/
def crowded (n : Nat) : State :=
  { node9 with bq := { node9.bq with
      queue := (List.range n).map fun i =>
        { serial := 6995 + i, style := 1, options := 0, zoneSeq := 40 + i, arrival := i, exitTaken := false }
      lastSeq := some (39 + n) } }

/-- Section 3.4: BODY 7002 with sequence 48 after 46 raises BODY_GAP (47, 48) and joins. -/
theorem test_gap_in_a_crowded_queue :
    (applyBody 7002 1 0 48 (crowded 7)).bq.queue.length = 8 ∧
    (applyBody 7002 1 0 48 (crowded 7)).rlk.fifo.map Numbered.report = [.event .bodyGap 47 48 0 0] ∧
    (applyBody 7003 1 0 48 (crowded 8)).bq.queue = (crowded 8).bq.queue := by decide +kernel

/-! ### Hypotheses of the statements are met: steps, time and reset -/

theorem witness_step : (node9.withPending [.gunOpen]).pending = [.gunOpen] := by decide

theorem witness_elapsed_time :
    node9.zbc.chosen = none ∧ node9.bq.hold = false ∧ node9.ssq.active.isSome ∧ node9.ssq.moveOpen = true ∧
    { node9.bq with hold := true }.hold = true ∧
    (squeezing 12000).zbc.chosen = none ∧ (squeezing 12000).bq.hold = false ∧ (squeezing 12000).ssq.state = .squeeze ∧
    { (squeezing 0).ssq with state := .hold }.state = .hold ∧ node9.sru.claim = .none ∧ waiting.zbc.chosen = none ∧
    waiting.bq.hold = false ∧ waiting.sru.claim = .waiting ∧ (granted 0).zbc.chosen = none ∧
    (granted 0).sru.claim = .granted := by decide +kernel

/-- Node 9 in JOINING with this much of the join wait left. -/
def joining (left : Nat) : State :=
  { node9 with zbc := { node9.zbc with node := .joining, joinTimer := some left } }

/-- Node 9 with the zone held for this long. -/
def held (left : Nat) : State := { node9 with bq := { node9.bq with hold := true, holdTimer := some left } }

/-- Node 9 with spot 214 in HOLD for this long. -/
def holding (left : Nat) : State :=
  { node9 with ssq := { node9.ssq with
      state := .hold, moveOpen := false,
      inHand := some (hand 0 left (some { worst := .ok, mean := 1060, res := 100, pulses := 3, ext := true })) } }

/-- Node 9 moving to spot 214, for which 412 units are learned, just at its late threshold of 515 units. -/
def moving : State :=
  { node9 with ssq := { node9.ssq with learned := List.replicate 10 0 ++ [412], moveTimer := 5150000 } }

theorem witness_time_passes_to_robot_late :
    (∀ i, moving.ssq.learned.getD i 0 ≤ 65535) ∧ moving.settings.lateMargin ≤ 255 ∧ moving.moveLeft = some 0 ∧
    { moving with ssq := { moving.ssq with moveTimer := 0 } }.moveLeft = some 5150000 := by
  refine ⟨fun i => ?_, by decide, by decide +kernel, by decide +kernel⟩
  have h : moving.ssq.learned = List.replicate 10 0 ++ [412] := rfl
  rcases Nat.lt_or_ge i 11 with hi | hi
  · rw [h]; interval_cases i <;> decide
  · rw [h, List.getD_eq_default _ _ (by simpa using hi)]; decide

theorem witness_time_passes : node9.pending = [] ∧ node9.nothingDue := by
  unfold State.nothingDue; decide +kernel

theorem witness_time_passes_to_each_timer :
    (joining 0).joinLeft = some 0 ∧ (joining 520000).joinLeft = some 520000 ∧
    node9.lapseLeft (4#5).toNat = some 12000 ∧ node9.lapseLeft (15#5).toNat = some 132000 ∧
    waiting.waitLeft = some 272000 ∧ (squeezing 40000).leadLeft = some 0 ∧ (squeezing 180000).leadLeft = some 140000 ∧
    (held 255000000).holdTimerLeft = some 255000000 ∧ (held 0).holdTimerLeft = some 0 ∧
    (squeezing 0).squeezeEndLeft = some 0 ∧ (squeezing 12000).squeezeEndLeft = some 12000 ∧
    (holding 0).holdLeft = some 0 ∧ (holding 60000).holdLeft = some 60000 ∧ fired.updateLeft = some 0 := by
  decide +kernel

/-- A step that starts from a bounded state and answers a next one. -/
theorem witness_bounds :
    State.Bounded { State.reset with pending := [.powerOn] } ∧
    step { State.reset with pending := [.powerOn] } = .next State.reset :=
  ⟨restartNode_bounded (s := { State.reset with pending := [.powerOn] }), rfl⟩

/-! ### The zone bus as bits -/

theorem witness_arbitration :
    arbKey { prec := 0, sender := 0 } < arbKey { prec := 0, sender := 1 } ∧
    arbKey { prec := 2, sender := 31 } < arbKey { prec := 3, sender := 0 } ∧
    arbKey { prec := 15, sender := 30 } < arbKey { prec := 15, sender := 31 } := by decide

/-! ### Reports, flags, mask, cursor and status -/

/-- Node 9 with the inspection cursor at an index of the plan. -/
def cursorAtPlan (i : Nat) : State :=
  { node9 with rlk := { node9.rlk with cursorTable := .plan, cursorIndex := i } }

theorem witness_link_takes : node9.linkTakes ∧ node9.zbc.node ≠ .loading ∧ node9.rlk.mailbox = none := by
  unfold State.linkTakes; decide

theorem witness_raised_flag : Flag.joinDone ≠ .reportLost := by decide

theorem witness_cursor_ranges :
    (tableFirst .plt ≤ (1#16).toNat ∧ (1#16).toNat < tableEnd .plt) ∧ (31#16).toNat < tableEnd .plt ∧
    (1023#16).toNat < tableEnd .learned ∧
    (∀ table : Table, tableCode table = (0#8).toNat → False) ∧
    (∀ table : Table, tableCode table = (8#8).toNat → False) ∧
    (∀ table : Table, tableCode table = (1#8).toNat →
      ¬(tableFirst table ≤ (0#16).toNat ∧ (0#16).toNat < tableEnd table)) ∧
    (∀ table : Table, tableCode table = (1#8).toNat →
      ¬(tableFirst table ≤ (32#16).toNat ∧ (32#16).toNat < tableEnd table)) := by
  refine ⟨by decide, by decide, by decide, ?_, ?_, ?_, ?_⟩ <;> intro t <;> cases t <;> decide

theorem witness_read_row :
    (cursorAtPlan 63).rlk.cursorIndex < tableEnd (cursorAtPlan 63).rlk.cursorTable ∧
    tableEnd (cursorAtPlan 64).rlk.cursorTable ≤ (cursorAtPlan 64).rlk.cursorIndex := by decide +kernel

/-- Node 9 with this report, number 255, at the head of its FIFO. -/
def reporting (r : Report) : State := { node9 with rlk := { node9.rlk with fifo := [⟨255, r⟩] } }

/-- A head report of each kind, a REVISIT-START of eight spots among them, and an empty FIFO. -/
theorem witness_read_report :
    (reporting (.programStart 7010 61 1 3 40 204)).rlk.fifo = ⟨255, .programStart 7010 61 1 3 40 204⟩ :: [] ∧
    (reporting (.spotDone 7010 61 214 .main .missed .halted withoutCurrent true)).zbc.node ≠ .loading ∧
    (reporting (.revisitStart 7010 61 [204, 205, 206, 207, 208, 209, 210, 211])).rlk.fifo ≠ [] ∧
    [204, 205, 206, 207, 208, 209, 210, 211].length ≤ 8 ∧
    (reporting (.bodyDone 7010 61 1 none true true 0 0 0 0 0)).rlk.fifo ≠ [] ∧
    (reporting (.event .bodyGap 47 48 0 0)).rlk.fifo ≠ [] ∧ node9.rlk.fifo = [] := by decide +kernel

/-- Node 9 with this command held in mailbox B. -/
def holdingCommand (b : FrameBody) : State := { node9 with rlk := { node9.rlk with mailbox := some b } }

theorem witness_read_status :
    { Iml.reset with phase := .bad }.phase = .bad ∧ node9.ssq.active.isSome ∧ State.reset.ssq.state = .idle ∧
    node9.ssq.state = .awaitGun ∧ node9.ssq.pass = .main ∧ node9.ssq.plan[node9.ssq.cursor]? = some entry214 ∧
    (revisiting node9 [11, 10]).ssq.state = .awaitGun ∧ (revisiting node9 [11, 10]).ssq.pass = .revisit ∧
    (revisiting node9 [11, 10]).ssq.deferred = 11 :: [10] ∧
    (revisiting node9 [11, 10]).ssq.plan[11]? = some entry215 ∧ (squeezing 0).ssq.state = .squeeze ∧
    fired.ssq.state = .firing ∧ fired.ssq.inHand = some (hand 0 0 none) ∧ fired.ssq.plan[10]? = some entry214 ∧
    (holdingCommand (.body 7010 1 0 61)).rlk.mailbox = some (.body 7010 1 0 61) ∧
    (holdingCommand (.exit 7010)).rlk.mailbox = some (.exit 7010) ∧
    (holdingCommand (.derate 3 100)).rlk.mailbox = some (.derate 3 100) ∧
    (holdingCommand (.halt 255)).rlk.mailbox = some (.halt 255) ∧
    (holdingCommand .resume).rlk.mailbox = some .resume := by decide +kernel

/-- A row present and absent, an entry and none, at an index of each table that has both; and a schedule of 1 pulse. -/
theorem witness_row_contents :
    rowOf node9.plt 4 = some ⟨1, 18, 12000, 4, 118, 9⟩ ∧ rowOf node9.plt 3 = none ∧
    node9.bq.queue[0]? = some body7010 ∧ node9.bq.queue.length ≤ 1 ∧ node9.ssq.plan[10]? = some entry214 ∧
    node9.ssq.plan.length ≤ 40 ∧ (revisiting node9 [10]).ssq.deferred[0]? = some 10 ∧
    (revisiting node9 [10]).ssq.deferred.length ≤ 1 ∧
    (schedule10.upslope + schedule10.pulses * schedule10.pulse + (schedule10.pulses - 1) * schedule10.cool +
      schedule10.downslope : Int) = (200 : Nat) ∧
    [Table.plt, .bq, .plan, .deferred, .pitch, .learned, .schedule].map tableEnd = [32, 8, 64, 8, 8, 1024, 64] := by
  decide +kernel

theorem witness_cut_short :
    kindLength 0x7F = none ∧ kindLength 0x21 = some 24 ∧ (0x21#8 :: List.replicate 22 0).length < 24 := by decide

/-- R161: bytes clocked beyond the length of READ-REPORT read as zero, and the transaction has its one effect. -/
theorem test_over_long_transaction :
    let bytes := 0x20#8 :: List.replicate 27 0xFF
    let s := { node9 with clockedBeyond := bytesBeyond bytes }
    transactionCommand bytes = .readReport ∧ (takeReport s).rlk.out.length = 28 ∧
    (takeReport s).rlk.out.drop 25 = [0, 0, 0] ∧ (takeReport node9).rlk.out.length = 25 := by decide +kernel

theorem witness_loading : State.reset.zbc.node = .loading := rfl

/-! ### Mailboxes -/

/-- Node 9 with another zone role. -/
def inRole (role : Nat) : State := { node9 with settings := { settings9 with role := role } }

/-- Node 9 in INERT. -/
def inert : State := { State.reset with zbc := { Zbc.reset with node := .inert } }

/-- Node 9 with a command held in mailbox B. -/
def busy : State := { node9 with rlk := { node9.rlk with mailbox := some .resume } }

theorem witness_held_command :
    (inRole 1).linkTakes ∧ (inRole 1).rlk.mailbox = none ∧ (inRole 1).settings.role = 1 ∧
    (inRole 2).linkTakes ∧ (inRole 2).rlk.mailbox = none ∧ (inRole 2).settings.role = 2 ∧
    node9.settings.role = 3 ∧ (1#24) ≠ 0 ∧ (0xFFFFFF#24) ≠ 0 := by
  unfold State.linkTakes; decide +kernel

theorem witness_refused :
    inert.zbc.node = .inert ∧ inert.zbc.node ≠ .loading ∧ ((4#8) ≠ 1 ∧ (4#8) ≠ 2 ∧ (4#8) ≠ 3) ∧ (7#8) ≠ 8 ∧
    9 ≤ (9#8).toNat ∧ busy.zbc.node = .run ∧ busy.rlk.mailbox.isSome ∧
    (inRole 0).settings.role = 0 ∧ (inRole 1).settings.role = 1 ∧ (inRole 1).rlk.mailbox = none ∧
    { node9.ssq with state := .idle }.state = .idle ∧
    (joining 0).zbc.node = .joining ∧ (granted 0).ownRow.isSome ∧ (granted 0).zbc.node = .run ∧
    offered.sru.claim = .offered ∧ offered.zbc.node = .run := by decide +kernel

theorem witness_abandon :
    node9.linkTakes ∧ node9.ssq.ending = false ∧ node9.ssq.state = .awaitGun ∧ node9.bq.queue = [body7010] ∧
    node9.ssq.active = some active7010 ∧ node9.ssq.inHand = none ∧
    (holding 60000).linkTakes ∧ (holding 60000).ssq.ending = false ∧ (holding 60000).ssq.state = .hold ∧
    (holding 60000).ssq.inHand.isSome ∧ (inPhase .pulse 5).linkTakes ∧ (inPhase .pulse 5).ssq.ending = false ∧
    (inPhase .pulse 5).ssq.inHand = some (hand 0 0 none) ∧ (inPhase .pulse 5).ssq.state = .firing ∧
    (inPhase .pulse 5).inCurrent := by
  unfold State.linkTakes State.inCurrent; decide +kernel

/-- SQUEEZE and PRESTART with a spot that can be exited, PENDING or DEFERRED, and an abort that runs. -/
theorem witness_abandon_of_a_spot :
    (squeezing 12000).exitable body7010 active7010 (hand 12000 0 none) entry214 ∧
    waiting.exitable body7010 active7010 (hand 12000 0 none) entry214 ∧
    (granted 5).exitable body7010 active7010 (hand 5 0 none) entry214 ∧
    (squeezing 12000).linkTakes ∧ (squeezing 12000).ssq.state = .squeeze ∧ fired.linkTakes ∧
    fired.exitable body7010 active7010 (hand 0 0 none) entry214 ∧ fired.ssq.state = .firing ∧
    fired.cpg.phase = .prestart ∧ (inPhase .aborting 5).linkTakes ∧ (inPhase .aborting 5).ssq.ending = false ∧
    (inPhase .aborting 5).ssq.state = .firing ∧ (inPhase .aborting 5).cpg.phase = .aborting ∧
    (inPhase .aborting 5).ssq.inHand = some (hand 0 0 none) := by
  unfold State.exitable State.linkTakes; decide +kernel

/-- Node 9 in SILENT. -/
def silent : State := { node9 with zbc := { node9.zbc with node := .silent, failures := 16 } }

theorem witness_rejoin :
    (node9.zbc.node = .run ∧ node9.ownRow = none ∧ node9.sru.claim ≠ .offered) ∧
    (silent.zbc.node = .silent ∧ silent.ownRow = none ∧ silent.sru.claim ≠ .offered) ∧
    node9.zbc.chosen ≠ some .claim ∧ (callArbitration waiting).zbc.node = .run ∧ (callArbitration waiting).ownRow = none ∧
    (callArbitration waiting).sru.claim ≠ .offered ∧ (callArbitration waiting).zbc.chosen = some .claim := by
  decide +kernel

theorem witness_tip_dressed :
    waiting.linkTakes ∧ waiting.cpg.w ≠ 0 ∧ waiting.sru.claim = .waiting ∧
    { State.reset with zbc := { Zbc.reset with node := .run } }.linkTakes := by
  unfold State.linkTakes; decide +kernel

/-- Node 9 with another entry for spot 216, two behind the expected one. -/
def with216 (e : PlanEntry) : State := { node9 with ssq := { node9.ssq with plan := plan40.set 12 e } }

/-- Spot 216 of an UNUSABLE schedule. -/
def bad216 : PlanEntry := { recIdx := 12, spotId := 216, sched := 11, outcome := .pending, cause := .none }

theorem witness_gun_closed :
    node9.linkTakes ∧ node9.ssq.state = .awaitGun ∧ node9.ssq.pass = .main ∧ node9.ssq.plan[10]? = some entry214 ∧
    entry214.spotId = (214#16).toNat ∧ 10 = node9.ssq.cursor ∧ (node9.ssq.plan.map PlanEntry.spotId).Nodup ∧
    node9.ssq.moveOpen = true ∧ node9.settings.claimLead < (scheduleOf node9.pst 12).squeeze ∧
    (revisiting node9 [10]).ssq.pass = .revisit ∧ (revisiting node9 [10]).ssq.deferred = 10 :: [] ∧
    (revisiting node9 [10]).ssq.deferred.head? ≠ some 11 ∧ (squeezing 0).ssq.state ≠ .awaitGun ∧
    (∀ e ∈ node9.ssq.plan, e.spotId ≠ (203#16).toNat) ∧ (∀ e ∈ node9.ssq.plan, e.spotId ≠ (244#16).toNat) := by
  unfold State.linkTakes; decide +kernel

theorem witness_gun_closed_ahead :
    node9.ssq.plan[11]? = some entry215 ∧ node9.ssq.cursor < 11 ∧ entry215.outcome = .pending ∧
    node9.ssq.active = some active7010 ∧ (scheduleOf node9.pst 12).mark = .usable ∧
    (with216 bad216).ssq.plan[12]? = some bad216 ∧ ((with216 bad216).ssq.plan.map PlanEntry.spotId).Nodup ∧
    (scheduleOf node9.pst bad216.sched).mark ≠ .usable ∧
    (with216 bad216).ssq.plan[12 + 1]?.map PlanEntry.sched = some 12 ∧
    node9.ssq.plan[9]?.map PlanEntry.spotId = some (213#16).toNat ∧ 9 < node9.ssq.cursor ∧
    { bad216 with outcome := .deferred }.outcome ≠ .pending := by decide +kernel

theorem witness_gun_open :
    node9.linkTakes ∧ node9.ssq.state = .awaitGun ∧ (squeezing 0).linkTakes ∧ (squeezing 0).ssq.state = .squeeze ∧
    (squeezing 0).sru.claim = .none ∧ waiting.linkTakes ∧ waiting.ssq.state = .squeeze ∧
    waiting.sru.claim = .waiting ∧ waiting.zbc.chosen ≠ some .claim ∧ (granted 5).linkTakes ∧
    (granted 5).ssq.state = .squeeze ∧ (granted 5).sru.claim = .granted ∧ (granted 5).ownRow.isSome ∧
    fired.linkTakes ∧ fired.ssq.state = .firing ∧ fired.cpg.phase = .prestart ∧ fired.sru.claim = .granted ∧
    fired.ownRow.isSome ∧ (inPhase .pulse 5).linkTakes ∧ (inPhase .pulse 5).ssq.state = .firing ∧
    (inPhase .pulse 5).ssq.inHand.isSome := by
  unfold State.linkTakes; decide +kernel

/-- GUN-OPEN beside an OFFERED and a RELEASING claim, in ABORTING, and in HOLD out of FAULT and in it. -/
theorem witness_gun_open_in_hold :
    offered.linkTakes ∧ offered.ssq.state = .squeeze ∧ offered.sru.claim = .offered ∧
    { (squeezing 0).sru with claim := .releasing }.claim = .releasing ∧ (callArbitration waiting).ssq.state = .squeeze ∧
    (callArbitration waiting).zbc.chosen = some .claim ∧ (inPhase .aborting 5).linkTakes ∧
    (inPhase .aborting 5).ssq.state = .firing ∧ (inPhase .aborting 5).cpg.phase = .aborting ∧
    (holding 60000).linkTakes ∧ (holding 60000).ssq.state = .hold ∧ (holding 60000).sgl.link ≠ .fault ∧
    ((holding 60000).ssq.inHand.bind SpotInHand.result).isSome ∧ (holding 60000).ssq.plan[10]? = some entry214 ∧
    (holding 60000).ssq.active = some active7010 ∧ (holding 60000).ssq.pass = .main ∧
    (holding 60000).ssq.ending = false ∧ (holding 60000).ssq.plan[(holding 60000).ssq.cursor + 1]? = some entry215 ∧
    (scheduleOf (holding 60000).pst entry215.sched).mark = .usable ∧
    { (holding 60000).sgl with link := .fault, updateIn := 500 }.updateIn ≠ 0 := by
  unfold State.linkTakes; decide +kernel

/-! ### Arbitration starts and offers -/

/-- A RELEASE of node 9. -/
def release214 : Frame := ⟨{ prec := 2, sender := 9 }, .release 1 214⟩

/-- A HALT of node 9 for an ANNOUNCE slot. -/
def halt9 : Frame := ⟨{ prec := 0, sender := 9 }, .halt 30⟩

/-- Node 9 with these frames ready. -/
def ready (r a : Option Frame) : State :=
  { node9 with zbc := { node9.zbc with releaseSlot := r, announceSlot := a } }

/-- Node 9 with its CLAIM chosen and then this frame in the ANNOUNCE slot. -/
def announcing (f : Frame) : State :=
  let s := callArbitration waiting
  { s with zbc := { s.zbc with announceSlot := some f } }

theorem witness_arbitration_start :
    State.reset.zbc.line = .busy ∧ silent.zbc.node = .silent ∧
    (ready (some release214) none).zbc.line = .idle ∧ (ready (some release214) none).zbc.wire = none ∧
    (ready (some release214) none).zbc.node = .run ∧ (ready none (some halt9)).zbc.announceSlot = some halt9 ∧
    halt9.arb.prec.toNat < release214.arb.prec.toNat ∧ (announcing halt9).zbc.line = .idle ∧
    (announcing halt9).zbc.wire = none ∧ (announcing halt9).zbc.node = .run ∧
    (announcing halt9).zbc.chosen = some .claim ∧ (announcing halt9).zbc.announceSlot.isSome := by decide +kernel

/-- R14: a HALT that fills its slot before the start bit of a chosen CLAIM is sent in its place. -/
theorem test_halt_over_a_chosen_claim :
    (callArbitration (announcing halt9)).zbc.chosen = some .announce ∧
    (callArbitration (announcing halt9)).zbc.startIn = (callArbitration waiting).zbc.startIn := by decide +kernel

/-- R34, section 4.7: W falls to 0 before the start bit of a chosen CLAIM, which is computed again without a boost. -/
theorem test_tips_dressed_under_a_chosen_claim :
    (callArbitration waiting).sru.record.map PendingClaim.load = some 22 ∧
    (setWeldCount 0 (callArbitration waiting)).sru.record.map PendingClaim.load = some 20 ∧
    (setWeldCount 0 (callArbitration waiting)).zbc.chosen = some .claim := by decide +kernel

theorem witness_claim_chosen :
    waiting.zbc.chosen ≠ some .claim ∧ (callArbitration waiting).zbc.chosen = some .claim ∧
    (callArbitration waiting).zbc.line = .idle ∧ (callArbitration waiting).zbc.wire = none ∧
    (callArbitration waiting).zbc.node = .run ∧
    (callArbitration (callArbitration waiting)).zbc.chosen = some .claim := by decide +kernel

/-- `waiting` under another feeder limit and count limit. -/
def limited (limit count : Nat) : State :=
  { waiting with settings := { settings9 with feederLimit := limit, countLimit := count } }

/-- The load recorded is 56 of three claims: 22 more fit 98 × 80 %, and not 97 × 80 %; a fourth claim fits 4, not 3. -/
theorem witness_claim_fits :
    waiting.zbc.line = .idle ∧ waiting.zbc.wire = none ∧ waiting.zbc.node = .run ∧ waiting.sru.claim = .waiting ∧
    waiting.bq.hold = false ∧ waiting.ownRow = none ∧ waiting.zbc.releaseSlot = none ∧
    waiting.zbc.announceSlot = none ∧ waiting.sru.request = some request214 ∧ waiting.zbc.chosen = none ∧
    boostedLoad (scheduleOf waiting.pst 12).load (boostOf waiting.pst waiting.cpg.w) = 22 ∧
    (limited 98 4).feederLoad + 22 ≤ (limited 98 4).settings.feederLimit * (limited 98 4).plt.derate / 100 ∧
    ¬(limited 97 4).feederLoad + 22 ≤ (limited 97 4).settings.feederLimit * (limited 97 4).plt.derate / 100 ∧
    (limited 98 4).feederClaims + 1 ≤ (limited 98 4).settings.countLimit ∧
    ¬(limited 98 3).feederClaims + 1 ≤ (limited 98 3).settings.countLimit ∧
    (callArbitration waiting).sru.claim = .waiting ∧ (callArbitration waiting).sru.request = some request214 ∧
    waiting.settings.bitRate = some .kbit500 := by decide +kernel

theorem witness_offer :
    (waiting.offerFor request214).map PendingClaim.prec = some 8 ∧
    (waiting.offerFor { request214 with pass := .revisit }).map PendingClaim.prec = some 3 ∧
    0 < waiting.bq.basePitch ∧ waiting.ssq.plan ≠ [] := by decide +kernel

/-- Schedule 14 sits on the bound of 440 ms; with the largest claim lead its lapse is 252 units (section 4.5). -/
theorem witness_usable_lapse :
    scheduleMark 1 (scheduleOf store9 14) = .usable ∧
    { squeezing 180000 with settings := { settings9 with claimLead := 60 } }.lapseUnits 14 = 252 := by decide +kernel

/-! ### Attempts of the node -/

/-- Node 9 with the frame of a slot on the wire, after this many failed attempts. -/
def attempt (slot : Slot) (f : Frame) (failures : Nat) : State :=
  { node9 with zbc := { node9.zbc with
      wire := some slot, line := .busy, failures := failures,
      claimSlot := if slot = .claim then some f else none,
      releaseSlot := if slot = .release then some f else none,
      announceSlot := if slot = .announce then some f else none } }

theorem witness_line :
    node9.zbc.node = .run ∧ node9.zbc.wire = none ∧ node9.zbc.line = .idle ∧
    (callArbitration waiting).zbc.line = .idle ∧ (callArbitration waiting).zbc.node = .run := by decide +kernel

/-- The start bit of a chosen CLAIM and of a chosen HALT, 2 µs ahead: 1, 2 and 3 µs of time. -/
theorem witness_own_start :
    (∀ n, n = 1 ∨ n = 2 ∨ n = 3 → 0 < n) ∧ (callArbitration waiting).zbc.chosen = some .claim ∧
    slotFrame { (callArbitration waiting).zbc with startIn := 2 } .claim = some claim214 ∧
    { (callArbitration waiting).zbc with startIn := 2 }.startIn = 2 ∧
    (callArbitration (ready none (some halt9))).zbc.chosen = some .announce ∧
    slotFrame (callArbitration (ready none (some halt9))).zbc .announce = some halt9 := by
  refine ⟨by omega, ?_⟩; decide +kernel

theorem witness_failed_attempt :
    (attempt .announce halt9 14).zbc.node = .run ∧ (attempt .announce halt9 14).zbc.failures < 15 ∧
    (attempt .announce halt9 14).sending .announce halt9 ∧ offered.zbc.node = .run ∧ offered.zbc.failures < 15 ∧
    offered.sending .claim claim214 ∧ offered.sru.claim = .offered ∧ offered.sru.expiryHeld = false ∧
    offered.sru.withdrawn = false ∧ offered.sru.waitTimer = some 28000 := by
  unfold State.sending; decide +kernel

theorem witness_sixteenth_failure :
    (attempt .announce halt9 15).sending .announce halt9 ∧ (attempt .announce halt9 15).zbc.failures = 15 ∧
    (attempt .announce halt9 15).zbc.node = .run ∧ (attempt .announce halt9 15).zbc.synced = true ∧
    frameValid ⟨halt9.arb, .halt 31⟩ = true ∧
    halt9.arb.sender.toNat = (attempt .announce halt9 15).settings.ownId := by
  unfold State.sending; decide +kernel

/-- R7: ID_CLASH is raised once for a frame that completes at the node its bit error has made SILENT, and again for the
next frame under the own id; a node that rejects the frame keeps no mark. -/
theorem test_one_id_clash_for_a_frame :
    let other : Frame := ⟨halt9.arb, .halt 31⟩
    let s := receiveFrame other (bitErrorSeen (some halt9.arb) (attempt .announce halt9 15))
    let clash : Report := .event .idClash 0 0 0 (byte (kindCode halt9.body))
    s.rlk.fifo.map Numbered.report = [.event .busSilent 0 0 0 (byte (kindCode halt9.body)), clash] ∧
    (receiveFrame other s).rlk.fifo.length = 3 ∧
    (bitErrorSeen (some halt9.arb) (attempt .announce halt9 14)).zbc.clashTold = false ∧
    (bitErrorSeen (some halt9.arb) (attempt .announce halt9 14)).rlk.fifo.map Numbered.report = [clash] := by
  decide +kernel

theorem witness_own_claim :
    offered.sending .claim claim214 ∧ claim214.body = .claim 1 22 156 61 214 ∧ frameValid claim214 = true ∧
    claim214.arb.sender.toNat = offered.settings.ownId ∧ offered.plt.rows.length = 31 ∧
    offered.sru.claim = .offered ∧ offered.sru.withdrawn = false ∧ offered.ssq.state = .squeeze ∧
    offered.bq.hold = false ∧ 0 < offered.squeezeLeft := by
  unfold State.sending; decide +kernel

/-- Node 9 with its RELEASE on the wire. -/
def releasing : State :=
  { attempt .release release214 0 with
    plt := setRow 9 (some ⟨1, 22, 100000, 61, 214, 8⟩) table9
    sru := { Sru.reset with claim := .releasing } }

/-- A DERATE of node 9 for its own feeder. -/
def derate9 : Frame := ⟨{ prec := 2, sender := 9 }, .derate 1 49⟩

theorem witness_own_release :
    releasing.sending .release release214 ∧
    release214 = ⟨{ prec := 2, sender := BitVec.ofNat 5 releasing.settings.ownId },
      .release (BitVec.ofNat 2 releasing.settings.feeder) (BitVec.ofNat 10 214)⟩ ∧
    1 ≤ releasing.settings.ownId ∧ releasing.settings.ownId ≤ 31 ∧ releasing.plt.rows.length = 31 ∧
    releasing.ownRow = some ⟨1, 22, 100000, 61, 214, 8⟩ ∧ releasing.settings.feeder = 1 ∧
    releasing.sru.claim = .releasing ∧ releasing.sru.request = none ∧
    (attempt .announce derate9 0).sending .announce derate9 ∧ derate9.arb.sender ≠ 0 := by
  unfold State.sending; decide +kernel

theorem witness_lost_claim :
    offered.decodes = true ∧ offered.sending .claim claim214 ∧ claim214.arb.sender.toNat = offered.settings.ownId ∧
    offered.peerFrame ⟨from3, .claim 1 18 100 5 77⟩ ∧ offered.sru.claim = .offered ∧ offered.sru.expiryHeld = false ∧
    offered.sru.withdrawn = false ∧ offered.sru.waitTimer = some 28000 := by
  unfold State.sending State.peerFrame; decide +kernel

/-! ### Frames of other nodes -/

theorem witness_hearing : node9.listening = true ∧ State.reset.decodes = false ∧ inert.decodes = false := by
  decide +kernel

theorem witness_not_applied :
    node9.listening = true ∧ frameValid ⟨from3, .claim 1 22 156 61 1000⟩ = false ∧ frameValid release214 = true ∧
    release214.arb.sender.toNat = node9.settings.ownId ∧ node9.zbc.clashTold = false ∧
    { silent.zbc with clashTold := true }.clashTold = true := by decide +kernel

theorem witness_peer_table :
    node9.peerFrame ⟨from3, .claim 1 63 255 5 999⟩ ∧ node9.peerFrame ⟨from3, .release 1 1⟩ ∧
    node9.peerFrame ⟨from3, .derate 1 101⟩ ∧ node9.peerFrame ⟨{ prec := 15, sender := 31 }, .derate 3 0⟩ := by
  unfold State.peerFrame; decide +kernel

/-- A HALT finds each of these node 9s listening, its zone not held. -/
theorem witness_halt :
    node9.peerFrame ⟨from3, .halt 0⟩ ∧ node9.peerFrame ⟨from3, .halt 255⟩ ∧ node9.listening = true ∧
    node9.bq.hold = false ∧ node9.ssq.state = .awaitGun ∧ (held 0).listening = true ∧ (held 0).bq.hold = true ∧
    waiting.listening = true ∧ waiting.bq.hold = false ∧ waiting.sru.claim ≠ .granted ∧
    (inPhase .aborting 5).listening = true ∧ (inPhase .aborting 5).bq.hold = false ∧
    (inPhase .aborting 5).ssq.state = .firing ∧ (inPhase .pulse 5).listening = true ∧
    (inPhase .pulse 5).bq.hold = false ∧ (inPhase .pulse 5).ssq.state = .firing := by
  unfold State.peerFrame; decide +kernel

theorem witness_halt_of_a_granted_spot :
    (granted 5).listening = true ∧ (granted 5).bq.hold = false ∧ (granted 5).sru.claim = .granted ∧
    (granted 5).ownRow.isSome ∧ (granted 5).zbc.node = .run ∧ (granted 5).ssq.state = .squeeze ∧
    fired.listening = true ∧ fired.bq.hold = false ∧ fired.sru.claim = .granted ∧ fired.ownRow.isSome ∧
    fired.zbc.node = .run ∧ fired.ssq.state = .firing ∧ fired.cpg.phase = .prestart ∧ fired.sgl.link = .active ∧
    (inNode .silent fired).listening = true ∧ (inNode .silent fired).peerFrame ⟨from3, .halt 1⟩ ∧
    (inNode .silent fired).zbc.node = .silent := by
  unfold State.peerFrame; decide +kernel

/-- The SILENT clause of a HALT, for a spot in SQUEEZE with its squeeze running and ended, and for one in PRESTART. -/
theorem witness_halt_of_a_silent_spot :
    (∀ n, n = 5 ∨ n = 0 →
      (inNode .silent (granted n)).listening = true ∧ (inNode .silent (granted n)).peerFrame ⟨from3, .halt 1⟩ ∧
      (inNode .silent (granted n)).bq.hold = false ∧ (inNode .silent (granted n)).sru.claim = .granted ∧
      (inNode .silent (granted n)).zbc.node = .silent ∧
      (inNode .silent (granted n)).midPlan (hand n 0 none) entry214 entry215 active7010 ∧
      (inNode .silent (granted n)).ssq.state = .squeeze) ∧
    (inNode .silent fired).bq.hold = false ∧ (inNode .silent fired).sru.claim = .granted ∧
    (inNode .silent fired).midPlan (hand 0 0 none) entry214 entry215 active7010 ∧
    (inNode .silent fired).ssq.state = .firing ∧ (inNode .silent fired).cpg.phase = .prestart := by
  unfold State.peerFrame State.midPlan
  refine ⟨fun n hn => ?_, by decide +kernel⟩
  rcases hn with rfl | rfl <;> decide +kernel

/-- Node 9 with its own RESUME on the wire and the zone held. -/
def resuming : State :=
  let s := attempt .announce ⟨{ prec := 1, sender := 9 }, .resume⟩ 0
  { s with bq := { s.bq with hold := true, holdTimer := some 1000000 } }

theorem witness_resume :
    (held 1).listening = true ∧ (held 1).peerFrame ⟨from3, .resume⟩ ∧ (held 1).bq.hold = true ∧
    node9.listening = true ∧ node9.peerFrame ⟨from3, .resume⟩ ∧ node9.bq.hold = false ∧
    resuming.sending .announce ⟨{ prec := 1, sender := 9 }, .resume⟩ ∧ resuming.bq.hold = true := by
  unfold State.peerFrame State.sending; decide +kernel

/-- Spot 214 in SQUEEZE, its claim at this state, when the hold ends; the claim lead is shorter than its squeeze of
180 ms, or as long. -/
def heldSqueeze (claim : ClaimState) (lead : Nat) : State :=
  { waiting with
    bq := { waiting.bq with hold := true, holdTimer := some 0 }
    sru := { waiting.sru with claim := claim }
    settings := { settings9 with claimLead := lead } }

theorem witness_resume_in_squeeze :
    (heldSqueeze .waiting 40).listening = true ∧ (heldSqueeze .waiting 40).bq.hold = true ∧
    (heldSqueeze .waiting 40).ssq.state = .squeeze ∧ (heldSqueeze .waiting 40).ssq.inHand = some (hand 12000 0 none) ∧
    (heldSqueeze .waiting 40).ssq.plan[10]? = some entry214 ∧
    (scheduleOf (heldSqueeze .waiting 40).pst 12).squeeze = 180 ∧
    (heldSqueeze .waiting 179).settings.claimLead * 1000 < 180 * 1000 ∧
    180 * 1000 ≤ (heldSqueeze .waiting 180).settings.claimLead * 1000 ∧
    (heldSqueeze .offered 40).sru.request.isSome ∧ (heldSqueeze .offered 40).sru.claim = .offered ∧
    { (heldSqueeze .offered 40).sru with request := none }.request = none ∧ (held 0).ssq.state ≠ .squeeze ∧
    (heldSqueeze .waiting 40).bq.holdTimer = some 0 ∧ (heldSqueeze .waiting 40).sru.claim ≠ .granted := by
  decide +kernel

theorem witness_body_frame :
    node9.listening = true ∧ node9.peerFrame ⟨from3, .body 7010 1 0 62⟩ ∧
    (∃ r ∈ node9.bq.queue, r.serial = (7010#24).toNat) ∧
    (crowded 7).listening = true ∧ (∀ r ∈ (crowded 7).bq.queue, r.serial ≠ (7002#24).toNat) ∧
    (crowded 7).bq.queue ≠ [] ∧ (crowded 7).bq.queue.length < 8 ∧ (crowded 7).peerFrame ⟨from3, .body 7002 1 0 48⟩ ∧
    (crowded 8).listening = true ∧ (∀ r ∈ (crowded 8).bq.queue, r.serial ≠ (7003#24).toNat) ∧
    8 ≤ (crowded 8).bq.queue.length ∧ (crowded 8).peerFrame ⟨from3, .body 7003 1 0 48⟩ ∧
    (crowded 0).listening = true ∧ (crowded 0).bq.queue = [] ∧ (crowded 0).peerFrame ⟨from3, .body 7002 1 0 48⟩ := by
  unfold State.peerFrame; decide +kernel

/-- Body 7010 carries style 1, whose program holds for options 0, with a first spot 301 of schedule 12. -/
theorem witness_offered_body :
    node9.bq.queue = [body7010] ∧ styleProgram node9.pst 2 = none ∧ styleProgram node9.pst body7010.style = some 3 ∧
    spotList node9.pst 3 body7010.options = [100, 102] ∧
    (scheduleOf node9.pst (recordOf node9.pst 100).sched).mark = .usable := by decide +kernel

theorem witness_exit :
    node9.listening = true ∧ node9.peerFrame ⟨from3, .exit 1⟩ ∧ (∀ r ∈ node9.bq.queue, r.serial ≠ (1#24).toNat) ∧
    { body7010 with exitTaken := true }.exitTaken = true ∧ body7010.serial = (7010#24).toNat ∧
    (crowded 3).listening = true ∧ (crowded 3).bq.queue.map BodyRecord.serial = [6995] ++ 6996 :: [6997] ∧
    (crowded 3).peerFrame ⟨from3, .exit 6996⟩ ∧
    (holding 60000).listening = true ∧ (holding 60000).peerFrame ⟨from3, .exit 7010⟩ ∧
    (holding 60000).bq.queue = [body7010] ∧ body7010.exitTaken = false ∧ (holding 60000).ssq.state = .hold ∧
    (holding 60000).ssq.ending = false ∧ (holding 60000).ssq.inHand.isSome ∧ (inPhase .pulse 5).listening = true ∧
    (inPhase .pulse 5).peerFrame ⟨from3, .exit 7010⟩ ∧ (inPhase .pulse 5).bq.queue = [body7010] ∧
    (inPhase .pulse 5).ssq.inHand.isSome ∧ (inPhase .pulse 5).ssq.ending = false := by
  unfold State.peerFrame; decide +kernel

/-- The exit of the head in AWAIT_GUN, in SQUEEZE and PRESTART, while an abort runs, and of a body that is ending. -/
theorem witness_exit_of_a_spot :
    node9.bq.queue = body7010 :: [] ∧ node9.peerFrame ⟨from3, .exit 7010⟩ ∧ node9.ssq.ending = false ∧
    node9.ssq.state = .awaitGun ∧ node9.ssq.active = some active7010 ∧ node9.ssq.inHand = none ∧
    (squeezing 12000).listening = true ∧ (squeezing 12000).peerFrame ⟨from3, .exit 7010⟩ ∧
    (squeezing 12000).exitable body7010 active7010 (hand 12000 0 none) entry214 ∧
    (squeezing 12000).ssq.state = .squeeze ∧ fired.listening = true ∧ fired.peerFrame ⟨from3, .exit 7010⟩ ∧
    fired.exitable body7010 active7010 (hand 0 0 none) entry214 ∧ fired.ssq.state = .firing ∧
    fired.cpg.phase = .prestart ∧ (inPhase .aborting 5).listening = true ∧
    (inPhase .aborting 5).bq.queue = [body7010] ∧ (inPhase .aborting 5).ssq.ending = false ∧
    (inPhase .aborting 5).ssq.state = .firing ∧ (inPhase .aborting 5).cpg.phase = .aborting ∧
    { node9.ssq with ending := true }.ending = true := by
  unfold State.exitable State.peerFrame; decide +kernel

/-! ### Timers that run out -/

theorem witness_join : (joining 0).zbc.node = .joining ∧ (joining 0).zbc.joinTimer = some 0 := by decide

/-- Node 9 RELEASING, its own row and the row of node 31 lapsed. -/
def lapsed : State :=
  { node9 with
    plt := setRow 31 (some ⟨1, 18, 0, 4, 118, 9⟩) (setRow 9 (some ⟨1, 22, 0, 61, 214, 8⟩) table9)
    zbc := { node9.zbc with releaseSlot := some release214 }
    sru := { Sru.reset with claim := .releasing } }

theorem witness_lapse :
    rowOf lapsed.plt (31#5).toNat = some ⟨1, 18, 0, 4, 118, 9⟩ ∧ (31#5).toNat ≠ lapsed.settings.ownId ∧
    rowOf lapsed.plt (9#5).toNat = some ⟨1, 22, 0, 61, 214, 8⟩ ∧ (9#5).toNat = lapsed.settings.ownId ∧
    lapsed.sru.claim = .releasing ∧ lapsed.sru.request = none ∧ lapsed.zbc.wire = none ∧
    lapsed.zbc.chosen = none := by decide +kernel

/-- The own row of a GRANTED claim has lapsed. -/
def ownLapsed (s : State) : State := { s with plt := setRow 9 (some ⟨1, 22, 0, 61, 214, 8⟩) s.plt }

theorem witness_lapse_of_a_grant :
    rowOf (ownLapsed (granted 5)).plt (9#5).toNat = some ⟨1, 22, 0, 61, 214, 8⟩ ∧ (granted 5).settings.ownId = 9 ∧
    (granted 5).sru.claim = .granted ∧ (granted 5).sru.request.isSome ∧ (granted 5).sru.waitTimer = some 28000 ∧
    (granted 5).ssq.state = .squeeze ∧ { (granted 5).sru with request := none }.request = none ∧
    rowOf (ownLapsed fired).plt (9#5).toNat = some ⟨1, 22, 0, 61, 214, 8⟩ ∧ fired.sru.claim = .granted ∧
    fired.sru.request.isSome ∧ fired.sru.waitTimer = some 28000 ∧ fired.ssq.state = .firing ∧
    fired.cpg.phase = .prestart ∧ fired.zbc.chosen ≠ some .claim ∧ (inPhase .pulse 5).sru.claim = .granted ∧
    (inPhase .pulse 5).sru.request.isSome ∧ (inPhase .pulse 5).sru.waitTimer = some 28000 ∧
    (inPhase .aborting 5).cpg.phase = .aborting ∧ (inPhase .aborting 5).sru.claim = .granted := by decide +kernel

/-- The claim-wait timer of spot 214 at its limit, with this many spots deferred. -/
def waitedOut (claim : ClaimState) : State :=
  { waiting with
    sru := { waiting.sru with claim := claim, waitTimer := some 300000 }
    ssq := { waiting.ssq with deferred := [0, 1, 2, 3, 4, 5, 6] } }

theorem witness_claim_wait :
    (waitedOut .waiting).bq.hold = false ∧ (waitedOut .waiting).sru.expiryHeld = false ∧
    (waitedOut .waiting).sru.waitTimer = some ((waitedOut .waiting).settings.claimWaitLimit * 1000) ∧
    (waitedOut .offered).sru.claim = .offered ∧ (waitedOut .waiting).sru.claim = .waiting ∧
    (waitedOut .waiting).zbc.chosen = none ∧ (waitedOut .waiting).ssq.state = .squeeze ∧
    (waitedOut .waiting).ssq.pass = .main ∧ (waitedOut .waiting).ssq.inHand = some (hand 12000 0 none) ∧
    (hand 12000 0 none).planIdx = (waitedOut .waiting).ssq.cursor ∧
    (waitedOut .waiting).ssq.plan[(waitedOut .waiting).ssq.cursor]?.isSome ∧
    (waitedOut .waiting).ssq.active.isSome ∧ (waitedOut .waiting).ssq.deferred.length < 8 ∧
    (waitedOut .waiting).ssq.ending = false := by decide +kernel

/-- With eight deferred spots the ninth is MISSED; in REVISIT the list keeps the next head. -/
theorem witness_claim_wait_misses :
    let full := { waitedOut .waiting with ssq := { waiting.ssq with deferred := [0, 1, 2, 3, 4, 5, 6, 7] } }
    let again := revisiting (waitedOut .waiting) [10, 11]
    full.midPlan (hand 12000 0 none) entry214 entry215 active7010 ∧ 8 ≤ full.ssq.deferred.length ∧
    again.ssq.pass = .revisit ∧ again.ssq.inHand = some (hand 12000 0 none) ∧ again.ssq.plan[10]? = some entry214 ∧
    again.ssq.active = some active7010 ∧ again.ssq.ending = false ∧ again.sgl.link ≠ .fault ∧
    again.ssq.plan.length ≤ again.ssq.cursor ∧ again.ssq.deferred = 10 :: 11 :: [] ∧ again.ssq.deferred.Nodup := by
  unfold State.midPlan; decide +kernel

/-- Node 9 with spot 214 at the claim lead under another feeder limit. -/
def atLead (limit : Nat) : State :=
  { squeezing 40000 with settings := { settings9 with feederLimit := limit } }

/-- With the derate of 80 and limits 28 and 27 the boosted load of 22 is just within and just over. -/
theorem witness_claim_lead :
    (atLead 28).ssq.state = .squeeze ∧ (atLead 28).ssq.inHand = some (hand 40000 0 none) ∧
    (atLead 28).ssq.active.isSome ∧ (atLead 28).ssq.plan[10]?.map PlanEntry.sched = some 12 ∧
    (atLead 28).bq.hold = false ∧ (atLead 28).sru.request = none ∧
    (hand 40000 0 none).squeezeLeft ≤ (atLead 28).settings.claimLead * 1000 ∧ (atLead 28).sru.claim = .none ∧
    (atLead 28).sru.visitRequested = false ∧ (atLead 28).sru.waitTimer = none ∧
    boostedLoad (scheduleOf (atLead 28).pst 12).load (boostOf (atLead 28).pst (atLead 28).cpg.w) ≤
      (atLead 28).settings.feederLimit * (atLead 28).plt.derate / 100 ∧
    (atLead 27).settings.feederLimit * (atLead 27).plt.derate / 100 <
      boostedLoad (scheduleOf (atLead 27).pst 12).load (boostOf (atLead 27).pst (atLead 27).cpg.w) := by
  decide +kernel

/-- A later request of the visit, its timer at 28 ms, also under a limit that the load exceeds; and one beside a
RELEASING claim. -/
def askingAgain (claim : ClaimState) : State :=
  { atLead 27 with sru := { Sru.reset with
      claim := claim, waitTimer := some 28000, visitRequested := true, withdrawn := claim = .offered } }

theorem witness_later_request :
    (askingAgain .none).ssq.state = .squeeze ∧ (askingAgain .none).ssq.inHand = some (hand 40000 0 none) ∧
    (askingAgain .none).ssq.active = some active7010 ∧ (askingAgain .none).ssq.plan[10]? = some entry214 ∧
    (askingAgain .none).bq.hold = false ∧ (askingAgain .none).sru.request = none ∧
    (hand 40000 0 none).squeezeLeft ≤ (askingAgain .none).settings.claimLead * 1000 ∧
    (askingAgain .none).sru.visitRequested = true ∧ (askingAgain .none).sru.claim = .none ∧
    (askingAgain .releasing).sru.claim = .releasing ∧ (askingAgain .offered).sru.claim = .offered ∧
    (askingAgain .offered).sru.withdrawn = true := by decide +kernel

theorem witness_oversize :
    (atLead 27).midPlan (hand 40000 0 none) entry214 entry215 active7010 ∧
    (revisiting (atLead 27) [10, 11]).ssq.pass = .revisit ∧ (revisiting (atLead 27) [10, 11]).ssq.ending = false ∧
    (revisiting (atLead 27) [10, 11]).sgl.link ≠ .fault ∧
    (revisiting (atLead 27) [10, 11]).ssq.plan.length ≤ (revisiting (atLead 27) [10, 11]).ssq.cursor ∧
    (revisiting (atLead 27) [10, 11]).ssq.deferred.Nodup := by
  unfold State.midPlan; decide +kernel

theorem witness_hold_expiry_and_late :
    (held 0).bq.hold = true ∧ (held 0).bq.holdTimer = some 0 ∧ (held 0).ssq.state ≠ .squeeze ∧
    moving.bq.hold = false ∧ moving.ssq.state = .awaitGun ∧ moving.ssq.pass = .main ∧ moving.ssq.moveOpen = true ∧
    moving.ssq.late = false ∧ moving.ssq.plan[moving.ssq.cursor]?.map PlanEntry.recIdx = some 10 ∧
    moving.ssq.learned.getD 10 0 ≠ 0 ∧
    moving.ssq.learned.getD 10 0 * (128 + moving.settings.lateMargin) / 128 * 10000 ≤ moving.ssq.moveTimer := by
  decide +kernel

theorem witness_squeeze_end :
    (granted 0).ssq.state = .squeeze ∧ (granted 0).ssq.inHand = some (hand 0 0 none) ∧
    (granted 0).ssq.plan[10]?.isSome ∧ (granted 0).bq.hold = false ∧ (granted 0).sru.claim = .granted ∧
    (granted 0).sru.record.isSome ∧ (squeezing 0).ssq.state = .squeeze ∧ (squeezing 0).bq.hold = false ∧
    (squeezing 0).sru.claim ≠ .granted := by decide +kernel

theorem witness_hold_end :
    (holding 0).ssq.state = .hold ∧ ((holding 0).ssq.inHand.map SpotInHand.holdLeft) = some 0 ∧
    ((holding 0).ssq.inHand.bind SpotInHand.result).isSome ∧ (holding 0).ssq.pass = .main ∧
    (holding 0).ssq.ending = false ∧ ((holding 0).ssq.inHand.map SpotInHand.planIdx) = some (holding 0).ssq.cursor ∧
    (holding 0).ssq.active.isSome ∧ (holding 0).ssq.plan[(holding 0).ssq.cursor]?.isSome ∧
    (holding 0).ssq.plan[(holding 0).ssq.cursor + 1]?.map PlanEntry.sched = some 12 ∧
    (scheduleOf (holding 0).pst 12).mark = .usable ∧ (holding 0).sru.claim = .none ∧
    (holding 0).sgl.link = .idle := by decide +kernel

/-- The hold of spot 214 at its end, with the stage link in FAULT and its next frame, number 37, due after this time. -/
def holdingInFault (updateIn : Nat) : State :=
  { holding 0 with sgl := { Sgl.reset with link := .fault, nextNum := 37, missing := 3, updateIn := updateIn } }

/-- The first clause of hold end: the stage link in FAULT, a frame due, and none due. -/
theorem witness_hold_end_in_fault :
    (holdingInFault 0).ssq.state = .hold ∧ (holdingInFault 0).ssq.inHand.map SpotInHand.holdLeft = some 0 ∧
    (holdingInFault 0).sgl.link = .fault ∧ (holdingInFault 0).sgl.updateIn = 0 ∧
    (holdingInFault 500).sgl.link = .fault ∧ (holdingInFault 500).sgl.updateIn ≠ 0 := by decide +kernel

/-- Section 7.1, the worked example: 120 frames of setpoint 0 go out in a hold of 60 ms, so the last, due at its end, is
sent before the spot is closed: by the clock, and by HOLD_END. The fault update sends 173; 120 on, modulo 256, is 37. -/
theorem test_last_zero_frame_of_a_hold :
    (clock (holdingInFault 0)).sgl.lastFrame = setpointFrame 37 0 ∧
    (clock (holdingInFault 0)).ssq.state = .hold ∧
    (clock (clock (holdingInFault 0))).ssq.state = .awaitGun ∧
    (clock (clock (holdingInFault 0))).sgl = (endHold (holdingInFault 0)).sgl ∧
    (endHold (holdingInFault 0)).sgl.link = .idle ∧ (endHold (holdingInFault 0)).sgl.nextNum = 38 := by
  decide +kernel

/-- The last spot of MAIN in HOLD, with these spots deferred. -/
def lastHolding (deferred : List Nat) : State :=
  { holding 0 with ssq := { (holding 0).ssq with cursor := 39, deferred := deferred } }

theorem witness_hold_end_of_the_last :
    (lastHolding [3, 5]).ssq.cursor + 1 = (lastHolding [3, 5]).ssq.plan.length ∧
    (lastHolding [3, 5]).ssq.deferred = 3 :: [5] ∧
    (lastHolding [3, 5]).ssq.deferred.map (fun k => (lastHolding [3, 5]).ssq.plan[k]?.map PlanEntry.spotId) =
      [207, 209].map some ∧
    (revisiting (holding 0) [3]).ssq.pass = .revisit ∧ (revisiting (holding 0) [3]).ssq.deferred = 3 :: [] ∧
    (revisiting (holding 0) [3]).ssq.plan.length ≤ (revisiting (holding 0) [3]).ssq.cursor ∧
    (lastHolding []).bq.queue = [body7010] ∧ (lastHolding []).ssq.deferred = [] ∧
    (revisiting (holding 0) []).ssq.deferred = [] ∧
    { (holding 0).ssq with ending := true }.ending = true := by decide +kernel

/-! ### The stage link and the current profile -/

/-- `fired` with another lapse in the own row. -/
def firedWith (lapse : Nat) : State :=
  { fired with plt := setRow 9 (some ⟨1, 22, lapse, 61, 214, 8⟩) fired.plt }

/-- B is 600 updates: 299.5 ms of lapse are 599, and 299.501 ms are 600. -/
theorem witness_give_up : (firedWith 299500).midPlan (hand 0 0 none) entry214 entry215 active7010 ∧
    (firedWith 299500).sru.claim = .granted := by
  unfold State.midPlan; decide +kernel

theorem witness_prestart :
    fired.updateDue .prestart ∧ fired.cpg.spot = some ⟨12, 6⟩ ∧
    (firedWith 299500).ownRow = some ⟨1, 22, 299500, 61, 214, 8⟩ ∧
    2 * (profileMs schedule12 + reserveMs schedule12 + 4) = 600 ∧
    ceilDiv (2 * 299500) 1000 = 599 ∧ ceilDiv (2 * 299501) 1000 = 600 ∧ stageReady fired.sgl = true ∧
    stageReady { fired.sgl with status := none } = false ∧ 0 < schedule12.upslope ∧ fired.sru.claim = .granted := by
  unfold State.updateDue; decide +kernel

/-- `fired` with another schedule 12, its weld count at 1799 and one below its dress limit. -/
def firedOn (c : Schedule) : State :=
  { fired with
    pst := { fired.pst with schedules := fired.pst.schedules.set 12 c }
    cpg := { fired.cpg with w := 1799 } }

theorem witness_current_begins :
    (firedOn schedule12).updateDue .prestart ∧ (firedOn schedule12).cpg.spot = some ⟨12, 6⟩ ∧
    (firedOn schedule12).ownRow = some ⟨1, 22, 312000, 61, 214, 8⟩ ∧
    600 ≤ ceilDiv (2 * 312000) 1000 ∧ stageReady (firedOn schedule12).sgl = true ∧
    (firedOn schedule12).sru.claim = .granted ∧ (firedOn schedule12).cpg.w + 1 = (firedOn schedule12).pst.dressLimit ∧
    (firedOn schedule12).cpg.setpoint = 0 ∧
    (scheduleOf (firedOn { schedule12 with shape := 1 }).pst 12).shape ≠ 0 ∧
    (scheduleOf (firedOn { schedule12 with upslope := 0 }).pst 12).upslope = 0 ∧ 0 < schedule12.upslope := by
  unfold State.updateDue; decide +kernel

/-- Sections 6.4 and 6.8: a GEOMETRIC upslope begins with 140, a LINEAR one with 92, none with G; and W at the dress limit
raises TIP_DRESS_DUE. -/
theorem test_current_begins :
    (updateStage (firedOn { schedule12 with shape := 1 })).cpg.setpoint = 140 ∧
    (updateStage (firedOn schedule12)).cpg.setpoint = 92 ∧
    (updateStage (firedOn { schedule12 with upslope := 0 })).cpg.phase = .pulse ∧
    (updateStage (firedOn { schedule12 with upslope := 0 })).cpg.setpoint =
      (updateStage (firedOn { schedule12 with upslope := 0 })).cpg.g ∧
    (updateStage (firedOn schedule12)).rlk.fifo.map Numbered.report = [.event .tipDressDue 0x07 0x08 0 0] ∧
    (updateStage fired).rlk.fifo = [] := by decide +kernel

/-- The answer of the stage to the latest update: status, current and voltage codes, and the check byte. -/
def answer (s : State) (status : Byte) : List Byte :=
  let b := [byte (latestNum s.sgl), status, 0x57, 0x00, 0x6E]
  b ++ [checkByte b]

/-- The current of spot 214 in a phase, the latest update not yet answered. -/
def unanswered (p : Phase) : State :=
  { inPhase p 5 with sgl := { (inPhase p 5).sgl with answered := false } }

theorem witness_pulse :
    (inPhase .pulse 159).updateDue .pulse ∧ (inPhase .pulse 159).cpg.spot = some ⟨12, 6⟩ ∧
    (inPhase .pulse 159).cpg.count < 2 * schedule12.pulse := by
  unfold State.updateDue; decide +kernel

theorem witness_sample :
    (unanswered .pulse).sgl.link = .active ∧ (unanswered .pulse).sgl.answered = false ∧
    (byte (latestNum (unanswered .pulse).sgl)).toNat = ((unanswered .pulse).sgl.nextNum + 255) % 256 ∧
    (unanswered .pulse).cpg.phase = .pulse ∧ (0x84#8).getLsbD 6 = false ∧ (0x84#8).getLsbD 5 = false ∧
    (0xC4#8).getLsbD 6 = true ∧ (0xA4#8).getLsbD 5 = true ∧ (unanswered .pulse).inCurrent ∧
    (unanswered .prestart).cpg.phase ≠ .pulse ∧ ¬(unanswered .prestart).inCurrent := by
  unfold State.inCurrent; decide +kernel

/-- R191: a wrong check, another number and a fifth byte too few are no answer. -/
theorem test_sample_acceptance :
    let s := unanswered .pulse
    sampleAccepted s.sgl (answer s 0x84) = true ∧ sampleAccepted s.sgl ((answer s 0x84).take 5) = false ∧
    sampleAccepted s.sgl ((answer s 0x84).take 5 ++ [0]) = false ∧
    sampleAccepted { s.sgl with nextNum := s.sgl.nextNum + 1 } (answer s 0x84) = false := by decide +kernel

/-- `inPhase` with another schedule 12. -/
def inPhaseOn (c : Schedule) (p : Phase) (count : Nat) : State :=
  { inPhase p count with pst := { store9 with schedules := store9.schedules.set 12 c } }

/-- The last updates of a phase and the one after: 12 of UPSLOPE, 40 of COOL, 20 of DOWNSLOPE. -/
theorem witness_updates_between_pulses :
    (inPhaseOn { schedule12 with shape := 1 } .upslope 10).updateDue .upslope ∧
    (scheduleOf (inPhaseOn { schedule12 with shape := 1 } .upslope 10).pst 12).shape ≠ 0 ∧
    10 + 1 < 2 * schedule12.upslope ∧ 11 + 1 = 2 * schedule12.upslope ∧
    (inPhaseOn { schedule12 with shape := 1 } .upslope 11).updateDue .upslope ∧
    (inPhase .upslope 12).updateDue .upslope ∧ 2 * schedule12.upslope ≤ 12 ∧ (inPhase .cool 39).updateDue .cool ∧
    39 < 2 * schedule12.cool ∧ (inPhase .cool 40).updateDue .cool ∧ 2 * schedule12.cool ≤ 40 ∧
    (inPhase .downslope 19).updateDue .downslope ∧ 19 < 2 * schedule12.downslope ∧
    (inPhase .downslope 19).cpg.spot = some ⟨12, 6⟩ := by
  unfold State.updateDue; decide +kernel

theorem witness_current_end :
    (inPhase .downslope 20).updateDue .downslope ∧ (inPhase .downslope 20).cpg.spot = some ⟨12, 6⟩ ∧
    (inPhase .downslope 20).ssq.inHand = some (hand 0 0 none) ∧ (hand 0 0 none).earlyOpen = false ∧
    (inPhase .downslope 20).ssq.plan[10]?.map PlanEntry.sched = some 12 ∧ 0 < schedule12.hold ∧
    2 * schedule12.downslope ≤ (inPhase .downslope 20).cpg.count ∧ (inPhase .downslope 20).cpg.abort = none ∧
    (inPhase .downslope 20).sru.claim = .granted ∧ (inPhase .downslope 20).ownRow.isSome := by
  unfold State.updateDue; decide +kernel

/-- The abort of section 6.12 after this many updates of its path. -/
def aborting (path : AbortPath) (count : Nat) : State :=
  { inPhase .aborting count with cpg := { (inPhase .aborting count).cpg with abort := some ⟨.halted, path, 1113⟩ } }

theorem witness_abort :
    (aborting .ramp 6).updateDue .aborting ∧ (aborting .ramp 6).cpg.abort = some ⟨.halted, .ramp, 1113⟩ ∧
    (aborting .ramp 6).cpg.slotLost = false ∧ (aborting .ramp 6).cpg.count < 7 ∧
    (aborting .ramp 7).updateDue .aborting ∧ 7 ≤ (aborting .ramp 7).cpg.count ∧
    (aborting .cut 0).updateDue .aborting ∧ (aborting .cut 0).cpg.abort = some ⟨.halted, .cut, 1113⟩ ∧
    { (aborting .ramp 0).cpg with slotLost := true }.slotLost = true ∧
    (aborting .cut 0).ssq.inHand = some (hand 0 0 none) ∧ (aborting .cut 0).ssq.plan[10]? = some entry214 ∧
    0 < schedule12.hold ∧ (aborting .cut 0).sru.claim = .granted ∧ (aborting .cut 0).ownRow.isSome := by
  unfold State.updateDue; decide +kernel

/-- Two updates in a row unanswered, and the third not answered either. -/
def missingTwo (p : Phase) : State :=
  { unanswered p with sgl := { (unanswered p).sgl with missing := 2 } }

/-- Two missing in PULSE, inside the pulse and at the update at which it ends. -/
theorem witness_link_fault :
    (missingTwo .pulse).sgl.link = .active ∧ (missingTwo .pulse).sgl.answered = false ∧
    (missingTwo .pulse).sgl.missing = 2 ∧ (missingTwo .pulse).sgl.updateIn = 0 ∧ (missingTwo .pulse).inCurrent ∧
    (missingTwo .pulse).ssq.inHand = some (hand 0 0 none) ∧ (missingTwo .pulse).ssq.plan[10]? = some entry214 ∧
    (missingTwo .pulse).cpg.spot = some ⟨12, 6⟩ ∧ 0 < schedule12.hold ∧ (missingTwo .pulse).sru.claim = .granted ∧
    (missingTwo .pulse).ownRow.isSome ∧ (missingTwo .pulse).cpg.count < 2 * schedule12.pulse ∧
    { (missingTwo .pulse).cpg with count := 160 }.count = 2 * schedule12.pulse ∧
    (missingTwo .upslope).cpg.phase ≠ .pulse := by
  unfold State.inCurrent; decide +kernel

/-- The abort of section 6.12 with two updates in a row unanswered. -/
def abortMissingTwo : State :=
  { aborting .ramp 3 with sgl := { (aborting .ramp 3).sgl with answered := false, missing := 2 } }

theorem witness_link_fault_in_an_abort :
    abortMissingTwo.sgl.link = .active ∧ abortMissingTwo.sgl.answered = false ∧ abortMissingTwo.sgl.missing = 2 ∧
    abortMissingTwo.sgl.updateIn = 0 ∧ abortMissingTwo.cpg.phase = .aborting ∧
    abortMissingTwo.cpg.abort = some ⟨.halted, .ramp, 1113⟩ ∧ abortMissingTwo.ssq.inHand = some (hand 0 0 none) ∧
    abortMissingTwo.ssq.plan[10]? = some entry214 ∧ (hand 0 0 none).earlyOpen = false ∧ 0 < schedule12.hold ∧
    abortMissingTwo.sru.claim = .granted ∧ abortMissingTwo.ownRow.isSome := by decide +kernel

theorem witness_link_fault_in_prestart :
    (missingTwo .prestart).cpg.phase = .prestart ∧
    (missingTwo .prestart).midPlan (hand 0 0 none) entry214 entry215 active7010 ∧
    (missingTwo .prestart).sru.claim = .granted ∧ (missingTwo .prestart).ownRow.isSome := by
  unfold State.midPlan; decide +kernel

theorem witness_linear_upslope :
    (inPhase .upslope 11).updateDue .upslope ∧ (inPhase .upslope 11).cpg.count < 2 * schedule12.upslope ∧
    (inPhase .upslope 12).updateDue .upslope ∧ 2 * schedule12.upslope ≤ (inPhase .upslope 12).cpg.count ∧
    schedule12.shape = 0 ∧ 1 ≤ schedule12.upslope ∧ (inPhase .upslope 11).cpg.spot = some ⟨12, 6⟩ ∧
    scheduleOf (inPhase .upslope 11).pst 12 = schedule12 ∧
    (unanswered .upslope).updateDue .upslope ∧
    fired.ownRow.isSome ∧ 600 ≤ ceilDiv (2 * (fired.ownRow.map Row.lapse).getD 0) 1000 := by
  unfold State.updateDue; decide +kernel

/-- A pulse of 140 judged samples with this mean, in the window 139, 1001, 1225. -/
def pulseOf (mean : Nat) : Wmn :=
  { startPulseRecord 1 1113 schedule12 Wmn.reset with iSum := 140 * mean, judged := 140 }

theorem witness_pulse_judgement :
    Wmn.reset.judged = 0 ∧ 0 < (pulseOf 0).judged ∧
    [138, 139, 1000, 1001, 1225, 1226].map (fun n => (pulseOf n).iSum / (pulseOf n).judged) =
      [138, 139, 1000, 1001, 1225, 1226] ∧
    [138, 139, 1000, 1001, 1225, 1226].map (fun n => pulseJudgement (pulseOf n)) =
      [.none, .low, .low, .ok, .ok, .high] := by decide +kernel

/-- The update at which pulse `idx` of spot 214 ends with this mean current. -/
def pulseEnding (idx mean : Nat) : State :=
  let s := inPhase .pulse 160
  { s with
    cpg := { s.cpg with pulseIdx := idx }
    wmn := { pulseOf mean with pulseIdx := idx } }

/-- Schedule 12 has two pulses, ABORT, a retry and a cool: 172 updates are what the extension needs. -/
theorem witness_pulse_end :
    (pulseEnding 1 1100).updateDue .pulse ∧ (pulseEnding 1 1100).cpg.spot = some ⟨12, 6⟩ ∧
    (pulseEnding 1 1100).wmn.results.length = 9 ∧ 2 * schedule12.pulse ≤ (pulseEnding 1 1100).cpg.count ∧
    schedule12.action = 1 ∧ pulseJudgement (pulseEnding 1 1226).wmn = .high ∧
    pulseJudgement (pulseEnding 1 138).wmn = .none ∧ pulseJudgement (pulseEnding 1 1100).wmn = .ok ∧
    pulseJudgement (pulseEnding 2 1000).wmn = .low ∧ (pulseEnding 1 1100).cpg.pulseIdx < schedule12.pulses ∧
    (pulseEnding 2 1000).cpg.pulseIdx = schedule12.pulses ∧ schedule12.retry = 1 ∧
    (pulseEnding 2 1000).cpg.extUsed = false ∧ (pulseEnding 2 1000).ownRow = some ⟨1, 22, 312000, 61, 214, 8⟩ ∧
    2 * (schedule12.cool + schedule12.pulse + schedule12.downslope + 4) ≤ ceilDiv (2 * 312000) 1000 ∧
    schedule12.pulses < (pulseEnding 3 1000).cpg.pulseIdx ∧ 0 < schedule12.downslope ∧
    (pulseEnding 1 1100).settings.abortPath = .ramp ∧ (pulseEnding 1 1226).cpg.slotLost = false := by
  unfold State.updateDue; decide +kernel

/-- The abort of a HIGH pulse on the CUT path ends the current of a spot with a hold. -/
theorem witness_pulse_end_cut :
    { settings9 with abortPath := .cut }.abortPath = .cut ∧ (pulseEnding 1 1226).ssq.inHand = some (hand 0 0 none) ∧
    (pulseEnding 1 1226).ssq.plan[10]? = some entry214 ∧ 0 < (scheduleOf (pulseEnding 1 1226).pst 12).hold := by
  decide +kernel

/-! ### The image -/

/-- A node that has read this much of an image of 1542 bytes (one spot record). -/
def reading (n blocks : Nat) : State :=
  { State.reset with iml := { Iml.reset with
      tested := true, length := 1542, image := List.replicate n 0, blocks := blocks } }

/-- R181: the memory is selected and read from address 0 at the entry to LOADING, and deselected after the last byte. -/
theorem test_memory_port :
    State.reset.iml.selected = true ∧ State.reset.iml.sent = [0x03, 0x00, 0x00] ∧
    (completeRead (List.replicate 6 0) (reading 1536 6)).iml.selected = false := by decide +kernel

theorem witness_image_read :
    State.reset.zbc.node = .loading ∧ State.reset.iml.phase = .reading ∧ State.reset.iml.tested = false ∧
    State.reset.iml.image = [] ∧ ¬((1025#16).toNat ≤ 1024 ∧ (6662#16).toNat = 1537 + 5 * (1025#16).toNat) ∧
    ((1024#16).toNat ≤ 1024 ∧ (6657#16).toNat = 1537 + 5 * (1024#16).toNat) ∧
    (reading 4 0).iml.image.length + (List.replicate 252 (0#8)).length = 256 * ((reading 4 0).iml.blocks + 1) ∧
    256 * ((reading 4 0).iml.blocks + 1) ≤ (reading 4 0).iml.length ∧
    (reading 1536 6).iml.image.length + (List.replicate 6 (0#8)).length = (reading 1536 6).iml.length ∧
    (reading 1536 6).iml.length < 256 * ((reading 1536 6).iml.blocks + 1) := by decide +kernel

/-- The bytes before the check of an image of node 31 with no spot record: every item of the header at a bound. -/
def imageBody : List Byte :=
  [0x06, 0x01, 0, 0, 31, 3, 2, 3, 1, 15, 0, 1, 8, 60, 0x07, 0xD0, 255, 1, 0xFF, 0xFF, 0] ++ List.replicate 24 0 ++
    List.replicate 16 255 ++ List.replicate 1472 0

/-- The whole image. -/
def image31 : List Byte := imageBody ++ checkBytes (crc32 imageBody)

/-- A node at the end of the read of an image. -/
def validating (image : List Byte) : State :=
  { State.reset with iml := { Iml.reset with
      phase := .validating, tested := true, length := image.length, image := image, blocks := 7 } }

/-- The check of an image stands behind its body, whatever its value. -/
theorem check_behind_body (body : List Byte) : imageCheckHolds (body ++ checkBytes (crc32 body)) = true := by
  have h : (body ++ checkBytes (crc32 body)).length - 4 = body.length := by simp [checkBytes]
  rw [imageCheckHolds, h, List.drop_left, List.take_left, decide_eq_true_eq]

theorem image31_check : imageCheckHolds image31 = true := check_behind_body imageBody

/-- Every header item of the image holds. -/
theorem image31_items : imageNodeId image31 = 31 ∧ failedItem image31 = none := by decide +kernel

/-- A good image; and, of the bad ones, one of no bytes, whose check cannot hold, and a header whose item 5 (a count limit
of 16) fails. -/
theorem witness_validation :
    (validating image31).zbc.node = .loading ∧ (validating image31).iml.phase = .validating ∧
    imageFailure image31 = none ∧ (validating image31).zbc.chosen ≠ some .claim ∧ imageFailure [] = some (.check, 0) ∧ failedItem (image31.set 9 16) = some 5 := by
  refine ⟨rfl, rfl, ?_, by decide +kernel, by decide +kernel, by decide +kernel⟩
  simp [imageFailure, image31_check, image31_items.1, image31_items.2]

end Sys2Proof.Tests
end

/-! ### The meanings of commands

One equation per command whose proof below rewrites with it: the shared operation that is the command's meaning. -/

namespace Sys2Proof.Machine

variable (s : State)

theorem exec_idlePoint : exec .idlePoint s = .next (idlePoint s) := rfl
theorem exec_startBit : exec .startBit s = .next (startBitSeen s) := rfl
theorem exec_bitError (heard : Option ArbField) : exec (.bitError heard) s = .next (bitErrorSeen heard s) := rfl
theorem exec_ownFrameRejected : exec .ownFrameRejected s = .next (ownRejected s) := rfl
theorem exec_ownFrameCompleted (receipt : Bool) :
    exec (.ownFrameCompleted receipt) s = .next (ownCompleted receipt s) := rfl
theorem exec_invalidFrame (f : Frame) : exec (.invalidFrame f) s = .next (receiveFrame f s) := rfl
theorem exec_ownIdFrame (f : Frame) : exec (.ownIdFrame f) s = .next (receiveFrame f s) := rfl
theorem exec_claimFrame (arb : ArbField) (feeder : BitVec 2) (load : BitVec 6) (lapse zoneSeq : BitVec 8)
    (spotId : BitVec 10) : exec (.claimFrame arb feeder load lapse zoneSeq spotId) s =
      .next (receiveFrame { arb := arb, body := .claim feeder load lapse zoneSeq spotId } s) := rfl
theorem exec_insertionViolation : exec .insertionViolation s = .next (discardFrame .disturbance s) := rfl
theorem exec_frameDiscarded (checkGood : Bool) : exec (.frameDiscarded checkGood) s =
    .next (discardFrame (if checkGood then .receiptSlot else .rejectSlot) s) := rfl
theorem exec_joinTimerExpiry : exec .joinTimerExpiry s = .next (onTimer s.joinLeft joinDone s) := rfl
theorem exec_rowLapse (id : BitVec 5) :
    exec (.rowLapse id) s = .next (onTimer (s.lapseLeft id.toNat) (lapseRow id.toNat) s) := rfl
theorem exec_claimLeadReached : exec .claimLeadReached s = .next (onTimer s.leadLeft raiseRequest s) := rfl
theorem exec_tipDressed : exec .tipDressed s = .next (writeA 3 0 s) := rfl
theorem exec_motionKindRefused (kind : Byte) (spot : BitVec 16) :
    exec (.motionKindRefused kind spot) s = .next (writeA kind spot.toNat s) := rfl
theorem exec_rejoin : exec .rejoin s = .next (writeB takeRejoin s) := rfl
theorem exec_restart : exec .restart s = .next (writeB takeRestart s) := rfl

end Sys2Proof.Machine

/-! ### Every step keeps the bounds (R17, R23, R24, R50, R52, R62, R105, R121, R125, R143, R171, R177) -/

namespace Sys2Proof.Machine

/-- Every command answers a next state, and that one lies in the bounds where the state before it did: each arm is one
shared operation, and each of those keeps the bounds. -/
theorem exec_bounded {s : State} (h : s.Bounded) (c : Instr) : ∃ t, exec c s = .next t ∧ t.Bounded := by
  cases c with
  | powerOn => exact ⟨_, rfl, restartNode_bounded⟩
  | blockRead bytes => exact ⟨_, rfl, takeBlock_bounded bytes h⟩
  | headerLengthRead imageLength recordCount => exact ⟨_, rfl, testLength_bounded _ _ h⟩
  | imageReadComplete bytes => exact ⟨_, rfl, completeRead_bounded bytes h⟩
  | validationEnd => exact ⟨_, rfl, validate_bounded h⟩
  | idlePoint => exact ⟨_, rfl, idlePoint_bounded h⟩
  | startBit => exact ⟨_, rfl, startBitSeen_bounded h⟩
  | bitError heard => exact ⟨_, rfl, bitErrorSeen_bounded heard h⟩
  | ownFrameRejected => exact ⟨_, rfl, ownRejected_bounded h⟩
  | ownFrameCompleted receipt => exact ⟨_, rfl, ownCompleted_bounded receipt h⟩
  | insertionViolation => exact ⟨_, rfl, discardFrame_bounded _ h⟩
  | frameDiscarded checkGood => exact ⟨_, rfl, discardFrame_bounded _ h⟩
  | invalidFrame f => exact ⟨_, rfl, receiveFrame_bounded f h⟩
  | ownIdFrame f => exact ⟨_, rfl, receiveFrame_bounded f h⟩
  | haltFrame arb seconds => exact ⟨_, rfl, receiveFrame_bounded _ h⟩
  | resumeFrame arb => exact ⟨_, rfl, receiveFrame_bounded _ h⟩
  | bodyFrame arb serial style options zoneSeq => exact ⟨_, rfl, receiveFrame_bounded _ h⟩
  | exitFrame arb serial => exact ⟨_, rfl, receiveFrame_bounded _ h⟩
  | derateFrame arb feeder percent => exact ⟨_, rfl, receiveFrame_bounded _ h⟩
  | claimFrame arb feeder load lapse zoneSeq spotId => exact ⟨_, rfl, receiveFrame_bounded _ h⟩
  | releaseFrame arb feeder spotId => exact ⟨_, rfl, receiveFrame_bounded _ h⟩
  | joinTimerExpiry => exact ⟨_, rfl, onTimer_bounded _ joinDone_bounded h⟩
  | rowLapse node => exact ⟨_, rfl, onTimer_bounded _ (lapseRow_bounded _) h⟩
  | claimWaitExpiry => exact ⟨_, rfl, onTimer_bounded _ claimWaitExpired_bounded h⟩
  | claimLeadReached => exact ⟨_, rfl, onTimer_bounded _ raiseRequest_bounded h⟩
  | holdTimerExpiry => exact ⟨_, rfl, onTimer_bounded _ (clearHold_bounded 3) h⟩
  | squeezeEnd => exact ⟨_, rfl, onTimer_bounded _ fireIfReady_bounded h⟩
  | holdEnd => exact ⟨_, rfl, onTimer_bounded _ endHold_bounded h⟩
  | robotLate => exact ⟨_, rfl, onTimer_bounded _ raiseLate_bounded h⟩
  | stageUpdate => exact ⟨_, rfl, onTimer_bounded _ updateStage_bounded h⟩
  | sampleFrame bytes => exact ⟨_, rfl, receiveSample_bounded bytes h⟩
  | gunClosed spot => exact ⟨_, rfl, writeA_bounded _ _ h⟩
  | gunOpen => exact ⟨_, rfl, writeA_bounded _ _ h⟩
  | tipDressed => exact ⟨_, rfl, writeA_bounded _ _ h⟩
  | motionKindRefused kind spot => exact ⟨_, rfl, writeA_bounded _ _ h⟩
  | announceBody serial style options zoneSeq => exact ⟨_, rfl, writeB_bounded (takeHeld_bounded _) h⟩
  | announceExit serial => exact ⟨_, rfl, writeB_bounded (takeHeld_bounded _) h⟩
  | announceDerate feeder percent => exact ⟨_, rfl, writeB_bounded (takeHeld_bounded _) h⟩
  | haltZone seconds => exact ⟨_, rfl, writeB_bounded (takeHeld_bounded _) h⟩
  | resumeZone => exact ⟨_, rfl, writeB_bounded (takeHeld_bounded _) h⟩
  | abandonBody => exact ⟨_, rfl, writeB_bounded takeAbandon_bounded h⟩
  | rejoin => exact ⟨_, rfl, writeB_bounded takeRejoin_bounded h⟩
  | restart => exact ⟨_, rfl, writeB_bounded (fun _ => takeRestart_bounded) h⟩
  | commandKindRefused kind fields => exact ⟨_, rfl, writeB_bounded (zoneCommand_bounded _ _) h⟩
  | readReport =>
    exact ⟨_, rfl, dataOut_bounded _ _ (fun ht => ht.modRlk (popReport_bounded ht.rlk)) h⟩
  | readStatus => exact ⟨_, rfl, shiftOut_bounded _ _ h⟩
  | setMask mask => exact ⟨_, rfl, dataIn_bounded _ (fun ht => ht.modRlk ht.rlk) h⟩
  | clearFlags set => exact ⟨_, rfl, dataIn_bounded _ (fun ht => ht.modRlk ht.rlk) h⟩
  | setCursor table index => exact ⟨_, rfl, dataIn_bounded _ (placeCursor_bounded _ _) h⟩
  | readRow =>
    exact ⟨_, rfl, dataOut_bounded _ _ (fun ht => ht.modRlk (advanceCursor_bounded ht.rlk)) h⟩
  | cutShortTransaction bytes => exact ⟨_, rfl, takeCutShort_bounded bytes h⟩

/-- Settles O7: a step is the clock or the front command, run on the node without that command in its queue; either
keeps the bounds. -/
theorem everyStepKeepsTheBounds : Obligations.EveryStepKeepsTheBounds := by
  intro s t h hs
  cases hq : s.pending with
  | nil =>
    simp only [step, hq, Host.Outcome.next.injEq] at hs
    exact hs ▸ clock_bounded h
  | cons c rest =>
    simp only [step, hq] at hs
    have hr : (s.withPending rest).Bounded := { h with }
    obtain ⟨t', ht, hb⟩ := exec_bounded hr c
    rw [ht] at hs
    exact (Host.Outcome.next.inj hs) ▸ hb

/-- Settles O6: every block is bounded at reset, as it is after RESTART. -/
theorem resetStateIsBounded : Obligations.ResetStateIsBounded := restartNode_bounded (s := State.reset)

end Sys2Proof.Machine

/-! ### The zone bus as bits (R3 to R6) -/

namespace Sys2Proof.Machine

/-- Settles O8: the receiver's removal undoes the sender's insertion, and reading the fields undoes writing them. -/
theorem frameReadsBackFromTheLine : Obligations.FrameReadsBackFromTheLine := by
  intro f
  have hr : removeBits true 0 false (lineBits f) = some (plainBits f) := removeBits_insertBits _ true 0 (by decide)
  simp only [readFrame, hr, readPlain_plainBits]

/-! #### Insertion violations -/

theorem removeBits_due_same (b : Bool) (run : Nat) (t : List Bool) : removeBits b run true (b :: t) = none := by
  simp [removeBits]

theorem removeBits_due_other {b lvl : Bool} (h : b ≠ lvl) (run : Nat) (t : List Bool) :
    removeBits lvl run true (b :: t) = removeBits b 1 false t := by
  simp [removeBits, h]

theorem removeBits_kept (b lvl : Bool) (run : Nat) (t : List Bool) : removeBits lvl run false (b :: t) =
    (removeBits b (if b = lvl then run + 1 else 1) ((if b = lvl then run + 1 else 1) == 7) t).map (b :: ·) := rfl

/-- R4: a run that reaches eight equal bits is refused: `run` of them have been read, `k` more stand ahead. -/
theorem removeBits_run (b : Bool) (after : List Bool) (k run : Nat) (hr : run < 7) (hk : 8 ≤ run + k) :
    removeBits b run false (List.replicate k b ++ after) = none := by
  induction k generalizing run with
  | zero => omega
  | succ k ih =>
    rw [List.replicate_succ, List.cons_append, removeBits_kept, if_pos rfl, Option.map_eq_none_iff]
    by_cases h7 : run + 1 = 7
    · obtain ⟨j, rfl⟩ : ∃ j, k = j + 1 := ⟨k - 1, by omega⟩
      rw [h7]; exact removeBits_due_same b 7 _
    · rw [beq_eq_false_iff_ne.2 h7]; exact ih (run + 1) (by omega) (by omega)

/-- R4: eight equal bits at the front are refused from every state the receiver can be in: with a bit due for removal,
or with fewer than seven equal bits behind it. -/
theorem removeBits_eight (b : Bool) (after : List Bool) (lvl : Bool) (run : Nat) (due : Bool)
    (hr : due = true ∨ run < 7) : removeBits lvl run due (List.replicate 8 b ++ after) = none := by
  have seven := removeBits_run b after 7 1 (by decide) (by decide)
  rw [List.replicate_succ, List.cons_append]
  by_cases hb : b = lvl
  · subst hb
    cases due with
    | true => exact removeBits_due_same b run _
    | false => exact removeBits_run b after 8 run (by simpa using hr) (by omega)
  · cases due with
    | true => rw [removeBits_due_other hb]; exact seven
    | false => rw [removeBits_kept, if_neg hb, Option.map_eq_none_iff]; exact seven

/-- R4: and so they are behind any bits. -/
theorem removeBits_eight_within (before after : List Bool) (b lvl : Bool) (run : Nat) (due : Bool)
    (hr : due = true ∨ run < 7) : removeBits lvl run due (before ++ (List.replicate 8 b ++ after)) = none := by
  induction before generalizing lvl run due with
  | nil => exact removeBits_eight b after lvl run due hr
  | cons x t ih =>
    rw [List.cons_append]
    cases due with
    | true =>
      by_cases hx : x = lvl
      · rw [hx]; exact removeBits_due_same lvl run _
      · rw [removeBits_due_other hx]; exact ih x 1 false (.inr (by decide))
    | false =>
      have hr : run < 7 := by simpa using hr
      rw [removeBits_kept, Option.map_eq_none_iff]
      refine ih x _ _ ?_
      rw [beq_iff_eq]
      split <;> omega

/-- Settles O9: the removal of inserted bits fails on them, wherever they stand. -/
theorem eightEqualBitsAreAViolation : Obligations.EightEqualBitsAreAViolation := by
  intro before after b
  have h := removeBits_eight_within before after b true 0 false (.inr (by decide))
  rw [← List.append_assoc] at h
  simp only [readFrame, h]

/-! #### Arbitration -/

theorem natOfBits_lt (l : List Bool) : natOfBits l < 2 ^ l.length := by
  induction l with
  | nil => simp [natOfBits]
  | cons b t ih =>
    rw [natOfBits_cons, List.length_cons, Nat.pow_succ]
    cases b <;> simp <;> omega

/-- Of two bit runs of one length the one of the smaller number has 0 where they first differ. -/
theorem firstDifference_of_natOfBits_lt (l m : List Bool) (hl : l.length = m.length)
    (h : natOfBits l < natOfBits m) : ∃ p x y, l = p ++ false :: x ∧ m = p ++ true :: y := by
  induction l generalizing m with
  | nil => obtain rfl := List.length_eq_zero_iff.1 hl.symm; omega
  | cons a t ih =>
    cases m with
    | nil => simp at hl
    | cons c u =>
      have hlen : t.length = u.length := by simpa using hl
      have hu := natOfBits_lt u
      rw [natOfBits_cons, natOfBits_cons, hlen] at h
      by_cases hac : a = c
      · subst hac
        obtain ⟨p, x, y, rfl, rfl⟩ := ih u hlen (by omega)
        exact ⟨a :: p, x, y, rfl, rfl⟩
      · cases a <;> cases c <;> simp at hac h
        · exact ⟨[], t, u, rfl, rfl⟩
        · omega

/-- R4: a sender sends the bit, and after it, where it is the seventh equal one, one of the opposite level. -/
theorem insertBits_cons (b lvl : Bool) (run : Nat) (t : List Bool) : insertBits lvl run (b :: t) =
    b :: if (if b = lvl then run + 1 else 1) = 7 then (!b) :: insertBits (!b) 1 t
      else insertBits b (if b = lvl then run + 1 else 1) t := by
  conv_lhs => unfold insertBits
  dsimp only
  generalize (if b = lvl then run + 1 else 1) = r
  split <;> rfl

/-- R4, R6: bit insertion keeps the first difference of two bit runs: the sender of 0 there sends dominant. -/
theorem insertBits_firstDifference (p x y : List Bool) (lvl : Bool) (run : Nat) : ∃ q x' y',
    insertBits lvl run (p ++ false :: x) = q ++ false :: x' ∧
    insertBits lvl run (p ++ true :: y) = q ++ true :: y' := by
  induction p generalizing lvl run with
  | nil => exact ⟨[], _, _, insertBits_cons .., insertBits_cons ..⟩
  | cons b t ih =>
    simp only [List.cons_append, insertBits_cons b]
    generalize (if b = lvl then run + 1 else 1) = r
    split
    · obtain ⟨q, x', y', hx, hy⟩ := ih (!b) 1
      exact ⟨b :: (!b) :: q, x', y', by rw [hx]; rfl, by rw [hy]; rfl⟩
    · obtain ⟨q, x', y', hx, hy⟩ := ih b r
      exact ⟨b :: q, x', y', by rw [hx]; rfl, by rw [hy]; rfl⟩

/-- R6: the arbitration field as a number. -/
theorem natOfBits_arbBits (a : ArbField) : natOfBits (arbBits a) = arbKey a := by
  rw [arbBits, natOfBits_append, natOfBits_bitsOf, natOfBits_bitsOf, bitsOf_length]; rfl

/-- R3, R6: on the line the frame of the lower arbitration field sends the first different bit dominant. -/
theorem lineBits_firstDifference {f g : Frame} (h : arbKey f.arb < arbKey g.arb) :
    ∃ q x y, lineBits f = q ++ false :: x ∧ lineBits g = q ++ true :: y := by
  rw [← natOfBits_arbBits, ← natOfBits_arbBits] at h
  obtain ⟨p, x, y, hf, hg⟩ := firstDifference_of_natOfBits_lt _ _ (by simp [arbBits, bitsOf_length]) h
  simp only [lineBits, plainBits, checkedBits, hf, hg, List.append_assoc, List.cons_append]
  exact insertBits_firstDifference (false :: p) _ _ true 0

/-- A sender that reads what it sends goes on; one that sent recessive and reads dominant has lost. -/
theorem keepsLine_self (l : List Bool) : keepsLine l l = true := by
  simp [keepsLine, List.zipWith_self]

theorem keepsLine_overridden (q : List Bool) : keepsLine (q ++ [true]) (q ++ [false]) = false := by
  simp [keepsLine, List.zipWith_append]

theorem wiredAnd_overridden (q : List Bool) : wiredAnd (q ++ [false]) (q ++ [true]) = q ++ [false] := by
  simp [wiredAnd, List.zipWith_append, List.zipWith_self]

/-- Settles O10: up to their first different bit both senders read what they send; there the dominant one overrides. -/
theorem lowerArbitrationKeyWinsTheLine : Obligations.LowerArbitrationKeyWinsTheLine := by
  intro f g h
  obtain ⟨q, x, y, hf, hg⟩ := lineBits_firstDifference h
  have hfront : ∀ (b : Bool) (t : List Bool), (q ++ b :: t).take (q.length + 1) = q ++ [b] := by
    intro b t; simp [List.take_append]
  refine ⟨q.length, ?_, ?_, ?_, ?_, ?_⟩
  · simp [hf, hg]
  · simp [hf]
  · simp [hg]
  · rw [hf, hg, hfront, hfront, wiredAnd_overridden, keepsLine_self]
  · rw [hf, hg, hfront, hfront, wiredAnd_overridden, keepsLine_overridden]

end Sys2Proof.Machine

/-! ### Time (R20, R28, R43, R60, R64, R84, R86, R95, R101, R110, R112, R113, R144) -/

namespace Sys2Proof.Machine

variable {s : State}

/-! #### What each block is once its timers have run -/

@[simp] theorem ageTimers_zbc (n : Nat) : (ageTimers n s).zbc =
    { s.zbc with joinTimer := runDown n s.zbc.joinTimer, startIn := s.zbc.startIn - n } := rfl
@[simp] theorem ageTimers_plt (n : Nat) : (ageTimers n s).plt = ageRows n s.plt := rfl
@[simp] theorem ageTimers_sru (n : Nat) : (ageTimers n s).sru = ageWait n s.waitLimitUs s.bq.hold s.sru := rfl
@[simp] theorem ageTimers_bq (n : Nat) : (ageTimers n s).bq = ageBodies n s.bq := rfl
@[simp] theorem ageTimers_ssq (n : Nat) : (ageTimers n s).ssq = ageSpots n s.bq.hold s.ssq := rfl
@[simp] theorem ageTimers_sgl (n : Nat) : (ageTimers n s).sgl = ageLink n s.sgl := rfl
@[simp] theorem ageTimers_settings (n : Nat) : (ageTimers n s).settings = s.settings := rfl

/-- R43: the claim-wait timer counts in WAITING and OFFERED of a zone that is not held. -/
theorem ageWait_counting {n limit : Nat} {u : Sru} (h : u.claim = .waiting ∨ u.claim = .offered) :
    ageWait n limit false u = { u with waitTimer := u.waitTimer.map fun v => min (v + n) limit } := by
  simp [ageWait, h]

theorem ageWait_held (n limit : Nat) (u : Sru) : ageWait n limit true u = u := by
  simp [ageWait]

theorem ageWait_standing {n limit : Nat} {hold : Bool} {u : Sru} (h : ¬(u.claim = .waiting ∨ u.claim = .offered)) :
    ageWait n limit hold u = u := by
  simp [ageWait, h]

/-- R95: the squeeze timer runs in SQUEEZE unless the zone is held. -/
theorem ageTimers_squeezeLeft (n : Nat) : (ageTimers n s).squeezeLeft =
    if s.ssq.state = .squeeze ∧ s.bq.hold = false then s.squeezeLeft - n else s.squeezeLeft := by
  simp only [State.squeezeLeft, ageTimers_ssq, ageSpots]
  cases s.ssq.inHand <;> simp [ageSpot]

/-- Settles O2: with no start bit to come, time runs the timers and does nothing else. -/
theorem elapsedTimeRunsEveryTimer : Obligations.ElapsedTimeRunsEveryTimer := by
  intro n s hn hc
  rw [elapse_unchosen n (Nat.pos_iff_ne_zero.1 hn) hc]
  refine ⟨rowOf_ageRows n s.plt, rfl, rfl, ?held, ?waits, ?stands, ?body, ?move, ?squeeze, ?hold, ?link, rfl, rfl, rfl,
    rfl, rfl, rfl, rfl⟩
  case held =>
    intro hh
    simp [ageSpots, ageTimers_squeezeLeft, hh, ageWait_held]
  case waits =>
    intro hh hw
    rw [ageTimers_sru, hh, ageWait_counting hw]; rfl
  case stands =>
    intro hw
    rw [ageTimers_sru, ageWait_standing]
    rcases hw with hw | hw | hw <;> simp [hw]
  case body => intro hh ha; exact if_pos ⟨ha, hh⟩
  case move => intro hh ho; exact if_pos ⟨ho, hh⟩
  case squeeze => intro hh hs; rw [ageTimers_squeezeLeft, if_pos ⟨hs, hh⟩]
  case hold =>
    intro hs
    simp only [State.holdLeft, ageTimers_ssq, ageSpots, hs, if_true]
    cases s.ssq.inHand <;> simp [ageSpot]
  case link => rw [ageTimers_sgl, ageLink]; split <;> rfl

/-! #### A timer's command takes effect at its moment -/

/-- Time changes bus and claim as the timers and a start bit do, and every other block as the timers do. -/
theorem elapse_changes (n : Nat) (hn : 0 < n) :
    ∃ z u, elapse n s = { ageTimers n s with zbc := z, sru := u } := by
  rcases elapse_cases (s := s) n (Nat.pos_iff_ne_zero.1 hn) with h | h
  · exact ⟨_, _, h⟩
  · rw [h]; exact sendStart_changes

theorem elapse_plt {n : Nat} (hn : 0 < n) : (elapse n s).plt = ageRows n s.plt := by
  obtain ⟨_, _, e⟩ := elapse_changes (s := s) n hn; rw [e]; rfl

theorem elapse_bq {n : Nat} (hn : 0 < n) : (elapse n s).bq = ageBodies n s.bq := by
  obtain ⟨_, _, e⟩ := elapse_changes (s := s) n hn; rw [e]; rfl

theorem elapse_ssq {n : Nat} (hn : 0 < n) : (elapse n s).ssq = ageSpots n s.bq.hold s.ssq := by
  obtain ⟨_, _, e⟩ := elapse_changes (s := s) n hn; rw [e]; rfl

theorem elapse_sgl {n : Nat} (hn : 0 < n) : (elapse n s).sgl = ageLink n s.sgl := by
  obtain ⟨_, _, e⟩ := elapse_changes (s := s) n hn; rw [e]; rfl

theorem elapse_settings {n : Nat} (hn : 0 < n) : (elapse n s).settings = s.settings := by
  obtain ⟨_, _, e⟩ := elapse_changes (s := s) n hn; rw [e]; rfl

theorem elapse_hold {n : Nat} (hn : 0 < n) : (elapse n s).bq.hold = s.bq.hold := by rw [elapse_bq hn]; rfl

theorem elapse_state {n : Nat} (hn : 0 < n) : (elapse n s).ssq.state = s.ssq.state := by rw [elapse_ssq hn]; rfl

/-- R2: a start bit changes neither the node's state nor the join timer. -/
theorem elapse_join {n : Nat} (hn : 0 < n) :
    (elapse n s).zbc.node = s.zbc.node ∧ (elapse n s).zbc.joinTimer = runDown n s.zbc.joinTimer := by
  rcases elapse_cases (s := s) n (Nat.pos_iff_ne_zero.1 hn) with h | h
  · rw [h]; exact ⟨rfl, rfl⟩
  · rw [h, sendStart]
    split
    · exact ⟨rfl, rfl⟩
    · dsimp only; split <;> exact ⟨rfl, rfl⟩

/-- R35, R43: of the claim time changes its timer, and a start bit its state. -/
theorem elapse_sru {n : Nat} (hn : 0 < n) : (elapse n s).sru = ageWait n s.waitLimitUs s.bq.hold s.sru ∨
    (elapse n s).sru = { ageWait n s.waitLimitUs s.bq.hold s.sru with claim := .offered } := by
  rcases elapse_cases (s := s) n (Nat.pos_iff_ne_zero.1 hn) with h | h <;> rw [h]
  · exact .inl rfl
  · exact sendStart_sru

theorem elapse_request {n : Nat} (hn : 0 < n) : (elapse n s).sru.request = s.sru.request := by
  have ha : (ageWait n s.waitLimitUs s.bq.hold s.sru).request = s.sru.request := by rw [ageWait]; split <;> rfl
  rcases elapse_sru (s := s) hn with h | h <;> rw [h] <;> exact ha

/-- R95: the squeeze timer after a time. -/
theorem elapse_squeezeLeft {n : Nat} (hn : 0 < n) (hs : s.ssq.state = .squeeze) (hh : s.bq.hold = false) :
    (elapse n s).squeezeLeft = s.squeezeLeft - n := by
  have h := ageTimers_squeezeLeft (s := s) n
  rw [if_pos ⟨hs, hh⟩] at h
  rw [← h]
  simp only [State.squeezeLeft, elapse_ssq hn, ageTimers_ssq]

/-- Log 2: where a timer with `n` µs to run is at 0 after them, its event now and its event then are one. -/
theorem onTimer_elapse {n : Nat} {left : State → Option Nat} {event : State → State} (h : left s = some n)
    (h0 : 0 < n → left (elapse n s) = some 0) :
    onTimer (left s) event s = onTimer (left (elapse n s)) event (elapse n s) := by
  rcases Nat.eq_zero_or_pos n with rfl | hn
  · rfl
  · rw [h, h0 hn]; rfl

theorem joinLeft_elapse {n : Nat} (h : s.joinLeft = some n) (hn : 0 < n) : (elapse n s).joinLeft = some 0 := by
  obtain ⟨hnode, hjoin⟩ := elapse_join (s := s) hn
  unfold State.joinLeft at h ⊢
  rw [hnode, hjoin]
  split at h
  · rename_i hj; simp [hj, h, runDown]
  · cases h

theorem lapseLeft_elapse {n id : Nat} (h : s.lapseLeft id = some n) (hn : 0 < n) :
    (elapse n s).lapseLeft id = some 0 := by
  obtain ⟨r, hrow, rfl⟩ := Option.map_eq_some_iff.1 h
  simp [State.lapseLeft, elapse_plt hn, rowOf_ageRows, hrow]

theorem waitLeft_elapse {n : Nat} (h : s.waitLeft = some n) (hn : 0 < n) : (elapse n s).waitLeft = some 0 := by
  have hl : (elapse n s).waitLimitUs = s.waitLimitUs := by simp only [State.waitLimitUs, elapse_settings hn]
  have hu := elapse_sru (s := s) hn
  unfold State.waitLeft at h
  split at h
  · rename_i hc
    obtain ⟨hw, hh, hx⟩ := hc
    rw [hh, ageWait_counting hw] at hu
    have counts : ((elapse n s).sru.claim = .waiting ∨ (elapse n s).sru.claim = .offered) ∧
        (elapse n s).sru.expiryHeld = false ∧
        (elapse n s).sru.waitTimer = s.sru.waitTimer.map fun v => min (v + n) s.waitLimitUs := by
      rcases hu with hu | hu <;> rw [hu]
      · exact ⟨hw, hx, rfl⟩
      · exact ⟨.inr rfl, hx, rfl⟩
    obtain ⟨hw', hx', ht⟩ := counts
    obtain ⟨v, hv, hvn⟩ := Option.map_eq_some_iff.1 h
    have hmin : s.waitLimitUs - min (v + n) s.waitLimitUs = 0 := by omega
    unfold State.waitLeft
    rw [if_pos ⟨hw', by rw [elapse_hold hn, hh], hx'⟩, ht, hv, hl, Option.map_some, Option.map_some, hmin]
  · cases h

theorem leadLeft_elapse {n : Nat} (h : s.leadLeft = some n) (hn : 0 < n) : (elapse n s).leadLeft = some 0 := by
  have hl : (elapse n s).leadUs = s.leadUs := by simp only [State.leadUs, elapse_settings hn]
  unfold State.leadLeft at h ⊢
  rw [elapse_state hn, elapse_request hn, elapse_hold hn, hl]
  split at h
  · rename_i hc
    rw [Option.some.injEq] at h
    rw [if_pos hc, elapse_squeezeLeft hn hc.1 hc.2.2]
    congr 1; omega
  · cases h

theorem holdTimerLeft_elapse {n : Nat} (h : s.holdTimerLeft = some n) (hn : 0 < n) :
    (elapse n s).holdTimerLeft = some 0 := by
  unfold State.holdTimerLeft at h ⊢
  rw [elapse_hold hn]
  split at h
  · rename_i hh
    rw [if_pos hh, elapse_bq hn]
    simp [ageBodies, h, runDown]
  · cases h

theorem squeezeEndLeft_elapse {n : Nat} (h : s.squeezeEndLeft = some n) (hn : 0 < n) :
    (elapse n s).squeezeEndLeft = some 0 := by
  unfold State.squeezeEndLeft at h ⊢
  rw [elapse_state hn, elapse_hold hn]
  split at h
  · rename_i hc
    rw [Option.some.injEq] at h
    rw [if_pos hc, elapse_squeezeLeft hn hc.1 hc.2]
    congr 1; omega
  · cases h

theorem holdLeft_elapse {n : Nat} (h : s.holdLeft = some n) (hn : 0 < n) : (elapse n s).holdLeft = some 0 := by
  unfold State.holdLeft at h ⊢
  rw [elapse_state hn]
  split at h
  · rename_i hs
    obtain ⟨i, hi, rfl⟩ := Option.map_eq_some_iff.1 h
    rw [if_pos hs, elapse_ssq hn]
    simp [ageSpots, hi, ageSpot, hs]
  · cases h

theorem updateLeft_elapse {n : Nat} (h : s.updateLeft = some n) (hn : 0 < n) : (elapse n s).updateLeft = some 0 := by
  unfold State.updateLeft at h ⊢
  rw [elapse_sgl hn]
  split at h
  · cases h
  · rename_i hl
    rw [Option.some.injEq] at h
    simp [ageLink, hl, h]

/-- R84, R112: the late threshold of a learned move time lies below the bound at which the move timer saturates. -/
theorem lateThreshold_le {learned margin : Nat} (hl : learned ≤ 65535) (hm : margin ≤ 255) :
    lateThreshold learned margin ≤ Config.moveTimeMax := by
  have h : learned * (128 + margin) ≤ 65535 * 383 := Nat.mul_le_mul hl (by omega)
  unfold lateThreshold Config.moveTimeMax
  omega

/-- R112: what the late threshold of a move depends on does not change with time. -/
theorem lateAt_elapse {n : Nat} (hn : 0 < n) : (elapse n s).lateAt = s.lateAt := by
  simp only [State.lateAt, elapse_ssq hn, elapse_settings hn]; rfl

theorem lateAt_range {t : Nat} (hl : ∀ i, s.ssq.learned.getD i 0 ≤ 65535) (hm : s.settings.lateMargin ≤ 255)
    (h : s.lateAt = some t) : s.ssq.moveOpen = true ∧ t ≤ Config.moveTimeMax * Config.usPerTen := by
  unfold State.lateAt at h
  split at h
  · rename_i hc
    refine ⟨hc.2.2.1, ?_⟩
    split at h
    · cases h
    · split at h
      · cases h
      · cases h
        exact Nat.mul_le_mul_right _ (lateThreshold_le (hl _) hm)
  · cases h

theorem moveLeft_elapse {n : Nat} (hl : ∀ i, s.ssq.learned.getD i 0 ≤ 65535) (hm : s.settings.lateMargin ≤ 255)
    (h : s.moveLeft = some n) (hn : 0 < n) : (elapse n s).moveLeft = some 0 := by
  unfold State.moveLeft at h ⊢
  rw [elapse_hold hn, lateAt_elapse hn, elapse_ssq hn]
  split at h
  · cases h
  · rename_i hh
    obtain ⟨t, ht, htn⟩ := Option.map_eq_some_iff.1 h
    obtain ⟨ho, hmax⟩ := lateAt_range hl hm ht
    have hmove : (ageSpots n s.bq.hold s.ssq).moveTimer =
        min (s.ssq.moveTimer + n) (Config.moveTimeMax * Config.usPerTen) := if_pos ⟨ho, by simpa using hh⟩
    rw [if_neg hh, ht, hmove, Option.map_some]
    congr 1; omega

/-- Log 2: with no timer due the clock lets 1 µs pass. -/
theorem clock_nothingDue (h : s.nothingDue) : clock s = elapse 1 s := by
  obtain ⟨hj, hr, hw, hl, ht, hf, hh, hm, hu⟩ := h
  have hrow : s.lapsedRow = none := by
    simp only [State.lapsedRow, List.find?_eq_none, List.mem_range]
    intro id hid
    simpa using hr id hid
  simp only [clock, hj, hrow, hw, hl, ht, hf, hu, hh, hm, if_false, Bool.false_eq_true]

/-- Settles O3: each timer of a command is at 0 once the time it has to run has passed. -/
theorem timePassesUpToEachTimer : Obligations.TimePassesUpToEachTimer := by
  intro n s
  have timer : ∀ {left : State → Option Nat} {event : State → State}, left s = some n →
      (0 < n → left (elapse n s) = some 0) →
      (.next (onTimer (left s) event s) : Host.Outcome State Fault Refusal) =
        .next (onTimer (left (elapse n s)) event (elapse n s)) := fun h h0 => congrArg _ (onTimer_elapse h h0)
  refine ⟨fun hp hd => ?clock, fun h => timer h (joinLeft_elapse h),
    fun id h => timer (left := (State.lapseLeft · id.toNat)) h (lapseLeft_elapse h),
    fun h => timer h (waitLeft_elapse h),
    fun h => timer h (leadLeft_elapse h), fun h => timer h (holdTimerLeft_elapse h),
    fun h => timer h (squeezeEndLeft_elapse h), fun h => timer h (holdLeft_elapse h),
    fun hl hm h => timer h (moveLeft_elapse hl hm h), fun h => timer h (updateLeft_elapse h)⟩
  case clock => simp only [step, hp, clock_nothingDue hd]

end Sys2Proof.Machine

/-! ### Steps and reset -/

namespace Sys2Proof.Machine

/-- Settles O1: the arm of `step` for a queue that is not empty. -/
theorem stepRunsFrontCommand : Obligations.StepRunsFrontCommand := by
  intro c rest s h
  simp only [step, h]; rfl

/-- Settles O5: each item is read off `State.reset`. -/
theorem resetLeavesTheNodeLoading : Obligations.ResetLeavesTheNodeLoading := by
  have zbc : State.reset.zbc.node = .loading ∧ State.reset.zbc.claimSlot = none ∧ State.reset.zbc.releaseSlot = none ∧
      State.reset.zbc.announceSlot = none ∧ State.reset.zbc.failures = 0 ∧ State.reset.zbc.joinTimer = none ∧
      State.reset.zbc.wire = none ∧ State.reset.zbc.line = .busy ∧ State.reset.decodes = false := by decide
  have rows : ∀ id, rowOf State.reset.plt id = none := rowOf_clearRows Plt.reset
  refine ⟨zbc, ⟨rows, rfl⟩, ?sru, ?bq, ?pst, ?ssq, ?cpg, ?wmn, ?sgl, ?rlk, ?settings, rfl, rfl⟩
  case sru => exact ⟨rfl, rfl, rfl, rfl, rfl⟩
  case bq => exact ⟨rfl, rfl, rfl, rfl, rfl, rfl, rfl⟩
  case pst =>
    exact ⟨fun _ => rfl, fun _ => rfl, fun _ => rfl, fun _ => rfl, rfl, fun _ => rfl, rfl⟩
  case ssq =>
    exact ⟨rfl, rfl, rfl, rfl, rfl, rfl, rfl, rfl, by decide, rfl, rfl, rfl, rfl, fun _ => rfl⟩
  case cpg => exact ⟨rfl, rfl, rfl, rfl, rfl, rfl, rfl, rfl, rfl, rfl⟩
  case wmn => exact ⟨rfl, rfl, rfl, rfl, rfl, rfl, rfl, rfl, rfl, rfl, rfl, rfl⟩
  case sgl => exact ⟨rfl, rfl, rfl, rfl, rfl⟩
  case rlk => exact ⟨rfl, rfl, rfl, rfl, rfl, rfl, rfl, by decide⟩
  case settings => exact ⟨rfl, rfl, rfl, rfl, rfl, rfl, rfl, rfl, rfl, rfl, rfl⟩

end Sys2Proof.Machine

/-! ### Commands of the robot link (R161 to R169) -/

namespace Sys2Proof.Machine

variable {s : State}

/-! #### What the tests of a held command answer (R165) -/

/-- R165, R166: a held command that passes its tests is held, its frame with the precedence of its kind. -/
theorem takeHeld_held {b : FrameBody} (hn : s.zbc.node ≠ .inert) (hm : s.rlk.mailbox = none)
    (hr : roleAllows s.settings.role b = true) (hs : serialGiven b = true) :
    takeHeld b s = s.withHeld (announcePrec b) b := by
  simp only [takeHeld, hn, hm, hr, hs, if_false, Option.isSome_none, Bool.false_eq_true, Bool.true_eq_false]
  rfl

theorem takeHeld_inert (b : FrameBody) (hn : s.zbc.node = .inert) : takeHeld b s = refuse kindWriteB (heldKind b) s :=
  if_pos hn

theorem takeHeld_busy (b : FrameBody) (hn : s.zbc.node ≠ .inert) (hm : s.rlk.mailbox.isSome) :
    takeHeld b s = raise .mailboxOverrun (heldKind b) 0 0 0 s := by
  simp only [takeHeld, hn, hm, if_false, if_true]

/-- R165, tests 4 and 5: without the role or without a serial the command is refused. -/
theorem takeHeld_refused {b : FrameBody} (hn : s.zbc.node ≠ .inert) (hm : s.rlk.mailbox = none)
    (h : roleAllows s.settings.role b = false ∨ serialGiven b = false) :
    takeHeld b s = refuse kindWriteB (heldKind b) s := by
  simp only [takeHeld, hn, hm, if_false, Option.isSome_none, Bool.false_eq_true]
  rcases h with h | h
  · rw [if_pos h]
  · rw [if_pos h, ite_self]

/-- R192: the command kind of the frame that a kind needs is that kind. -/
theorem heldKind_of_heldBody {kind : Byte} {fields : BitVec 48} {b : FrameBody} (h : heldBody kind fields = some b) :
    heldKind b = kind := by
  have hk : ∀ n, kind.toNat = n → byte n = kind := by
    rintro _ rfl; simp [byte]
  unfold heldBody at h
  split at h <;> simp only [Option.some.injEq, reduceCtorEq] at h <;> subst h <;> exact hk _ ‹_›

/-- R192: the held commands are kinds 1 to 5. -/
theorem kind_of_heldBody {kind : Byte} {fields : BitVec 48} {b : FrameBody} (h : heldBody kind fields = some b) :
    kind.toNat ≠ 0 ∧ kind.toNat < 9 := by
  unfold heldBody at h
  split at h <;> simp only [Option.some.injEq, reduceCtorEq] at h <;> omega

theorem takeAbandon_refused (h : s.zbc.node = .inert ∨ s.ssq.state = .idle) :
    takeAbandon s = refuse kindWriteB 6 s := if_pos h

theorem takeRejoin_refused (h : s.mayRejoin = false) : takeRejoin s = refuse kindWriteB 7 s :=
  if_neg (by simp [h])

theorem takeRejoin_accepted (h : s.mayRejoin = true) : takeRejoin s = enterJoining s := if_pos h

theorem mayRejoin_iff : s.mayRejoin = true ↔
    (s.zbc.node = .run ∨ s.zbc.node = .silent) ∧ s.ownRow = none ∧ s.sru.claim ≠ .offered := by
  simp [State.mayRejoin]

/-- R165: a kind that names none of the eight is refused, and INERT refuses every kind but RESTART's. -/
theorem zoneCommand_refused (kind : Byte) (fields : BitVec 48)
    (h : (s.zbc.node = .inert ∧ kind ≠ 8) ∨ kind = 0 ∨ 9 ≤ kind.toNat) :
    zoneCommand kind fields s = refuse kindWriteB kind s := by
  have named : kind.toNat ≠ 0 → kind.toNat < 9 → s.zbc.node = .inert ∧ kind ≠ 8 := by
    intro h0 h9
    rcases h with h | rfl | h
    · exact h
    · exact absurd rfl h0
    · omega
  have of_toNat : ∀ n : Byte, kind.toNat = n.toNat → kind = n := fun n hn => BitVec.eq_of_toNat_eq hn
  unfold zoneCommand
  split
  case h_1 b hb =>
    obtain ⟨h0, h9⟩ := kind_of_heldBody hb
    have hin := (named h0 h9).1
    rw [takeHeld_inert _ hin, heldKind_of_heldBody hb]
  case h_2 =>
    split
    case h_1 hk => rw [takeAbandon_refused (.inl (named (by omega) (by omega)).1), of_toNat 6 hk]
    case h_2 hk =>
      have hin := (named (by omega) (by omega)).1
      rw [takeRejoin_refused (by simp [State.mayRejoin, hin]), of_toNat 7 hk]
    case h_3 hk => exact absurd (of_toNat 8 hk) (named (by omega) (by omega)).2
    case h_4 => rfl

/-! #### Commands held and refused -/

/-- Settles O19: each kind passes its tests, and its frame has the precedence of R39. -/
theorem heldCommandFillsTheAnnounceSlot : Obligations.HeldCommandFillsTheAnnounceSlot := by
  intro s ⟨hl, hi⟩ hm
  have held : ∀ b, roleAllows s.settings.role b = true → serialGiven b = true →
      (.next (writeB (takeHeld b) s) : Host.Outcome State Fault Refusal) =
        .next ((s.afterDataIn 8).withHeld (announcePrec b) b) := by
    intro b hr hs
    rw [writeB_takes _ hl, takeHeld_held (s := s.afterDataIn 8) hi hm hr hs]
  refine ⟨fun serial style options zoneSeq hr hs => ?_, fun serial hr hs => ?_, fun feeder percent => ?_,
    fun seconds => ?_, ?_⟩
  · exact held (.body serial style options zoneSeq) (decide_eq_true hr) (decide_eq_true hs)
  · exact held (.exit serial) (decide_eq_true hr) (decide_eq_true hs)
  · exact held (.derate feeder percent) rfl rfl
  · exact held (.halt seconds) rfl rfl
  · exact held .resume rfl rfl

/-- Settles O20: each test that fails answers its one flag. -/
theorem refusedCommandsRaiseOneFlag : Obligations.RefusedCommandsRaiseOneFlag := by
  intro s hl
  have onB : ∀ {effect : State → State} {t : State}, effect (s.afterDataIn 8) = t →
      (.next (writeB effect s) : Host.Outcome State Fault Refusal) = .next t := by
    rintro effect _ rfl
    rw [writeB_takes _ hl]
  refine ⟨fun kind spot h => ?motion, fun kind fields h => onB (zoneCommand_refused kind fields h),
    fun seconds hi hm => onB (takeHeld_busy _ hi hm), fun serial hi hm h => onB (takeHeld_refused hi hm ?exit),
    fun hi hs => onB (takeAbandon_refused (.inr hs)), fun h => onB (takeRejoin_refused ?rejoin)⟩
  case motion =>
    by_cases hi : s.zbc.node = .inert
    · rw [exec_motionKindRefused]
      simp only [writeA, dataIn, hl, if_false]
      exact congrArg _ (if_pos hi)
    · obtain ⟨h1, h2, h3⟩ := h.resolve_left hi
      have other : ∀ n : Byte, kind ≠ n → kind.toNat ≠ n.toNat := fun n hne he => hne (BitVec.eq_of_toNat_eq he)
      rw [exec_motionKindRefused, writeA_takes _ _ ⟨hl, hi⟩]
      unfold motionRecord
      split
      case h_1 hk => exact absurd hk (other 1 h1)
      case h_2 hk => exact absurd hk (other 2 h2)
      case h_3 hk => exact absurd hk (other 3 h3)
      case h_4 => rfl
  case exit =>
    rcases h with h | h | h
    · exact .inl (decide_eq_false (by show ¬(s.settings.role = 2 ∨ s.settings.role = 3); omega))
    · exact .inl (decide_eq_false (by show ¬(s.settings.role = 2 ∨ s.settings.role = 3); omega))
    · exact .inr (decide_eq_false (not_not_intro h))
  case rejoin =>
    rw [← Bool.not_eq_true, mayRejoin_iff]
    rintro ⟨hn, hr, hc⟩
    rcases h with h | h | h
    · have hj : s.zbc.node = .run ∨ s.zbc.node = .silent := hn
      simp [h] at hj
    · have hr : s.ownRow = none := hr
      simp [hr] at h
    · exact hc h

/-! #### REJOIN, RESTART and TIP-DRESSED -/

/-- R20: JOINING entered with no CLAIM chosen. -/
theorem enterJoining_unchosen (h : s.zbc.chosen ≠ some .claim) : enterJoining s = { s with
    plt := clearRows s.plt, zbc := { s.zbc with node := .joining, failures := 0, joinTimer := some 520000 } } := by
  simp only [enterJoining, voidClaimChoice, h, if_false]; rfl

/-- R14, R20: JOINING entered with a CLAIM chosen, which is void (log 21). -/
theorem enterJoining_chosen (h : s.zbc.chosen = some .claim) : enterJoining s = { s with
    plt := clearRows s.plt, sru := { s.sru with record := none },
    zbc := { s.zbc with node := .joining, failures := 0, joinTimer := some 520000, chosen := none, startIn := 0,
                        claimSlot := none } } := by
  simp only [enterJoining, voidClaimChoice, voidChoice, h, if_true]; rfl

/-- Settles O22: an accepted REJOIN is the entry to JOINING, with and without a CLAIM chosen. -/
theorem rejoinEntersJoining : Obligations.RejoinEntersJoining := by
  intro s hn hr hc
  have accepted : exec .rejoin s = .next (enterJoining (s.afterDataIn 8)) := by
    have hl : s.zbc.node ≠ .loading := by rcases hn with hn | hn <;> simp [hn]
    have hm : (s.afterDataIn 8).mayRejoin = true := mayRejoin_iff.2 ⟨hn, hr, hc⟩
    rw [exec_rejoin, writeB_takes _ hl, takeRejoin_accepted hm]
  refine ⟨⟨_, accepted, ?_⟩, fun h => ?unchosen⟩
  case unchosen => rw [accepted, enterJoining_unchosen (s := s.afterDataIn 8) h]; rfl
  have cleared := rowOf_clearRows s.plt
  by_cases h : s.zbc.chosen = some .claim
  · rw [enterJoining_chosen (s := s.afterDataIn 8) h]
    exact ⟨rfl, rfl, rfl, cleared, rfl, rfl, rfl, rfl, rfl, rfl, rfl, rfl, rfl, rfl, rfl, rfl, rfl, rfl, rfl, rfl, rfl,
      nofun⟩
  · rw [enterJoining_unchosen (s := s.afterDataIn 8) h]
    exact ⟨rfl, rfl, rfl, cleared, rfl, rfl, rfl, rfl, rfl, rfl, rfl, rfl, rfl, rfl, rfl, rfl, rfl, rfl, rfl, rfl, rfl,
      h⟩

/-- Settles O23: both are the restart of the node; RESTART keeps what its transaction has shifted out. -/
theorem powerOnAndRestartReset : Obligations.PowerOnAndRestartReset := by
  refine fun s => ⟨rfl, fun hl => ?_⟩
  rw [exec_restart, writeB_takes _ hl]; rfl

/-- Settles O24: the third motion kind sets the weld count to 0. -/
theorem tipDressedClearsTheWeldCount : Obligations.TipDressedClearsTheWeldCount := by
  intro s hl
  rw [exec_tipDressed, writeA_takes _ _ hl]
  show Host.Outcome.next (setWeldCount 0 (s.afterDataIn 4)) = _
  simp only [setWeldCount, ne_comm (a := 0)]; rfl

/-- Settles O45: the join timer of JOINING has run out, so its event is taken at once. -/
theorem joinTimerLeadsToRun : Obligations.JoinTimerLeadsToRun := by
  intro s hn ht
  have hl : s.joinLeft = some 0 := by rw [State.joinLeft, if_pos hn, ht]
  rw [exec_joinTimerExpiry, hl]; rfl

end Sys2Proof.Machine

/-! ### Arbitration starts (R2, R13 to R15, R18, R30 to R39) -/

namespace Sys2Proof.Machine

variable {s : State}

/-! #### The choice and its undoing -/

/-- R18: off the idle line, with an attempt on it, or in a state that sends nothing, no arbitration start is made. -/
theorem callArbitration_closed (h : s.arbitrationOpen = false) : callArbitration s = s := if_neg (by simp [h])

theorem arbitrationOpen_iff : s.arbitrationOpen = true ↔
    s.zbc.line = .idle ∧ s.zbc.wire = none ∧ (s.zbc.node = .joining ∨ s.zbc.node = .run) := by
  simp [State.arbitrationOpen]

theorem voidChoice_unchosen (h : s.zbc.chosen = none) : voidChoice s = s := by
  simp only [voidChoice, h]

theorem voidChoice_claim (h : s.zbc.chosen = some .claim) : voidChoice s = { s with
    zbc := { s.zbc with chosen := none, startIn := 0, claimSlot := none }, sru := { s.sru with record := none } } := by
  simp only [voidChoice, h]; rfl

theorem voidChoice_other {slot : Slot} (h : s.zbc.chosen = some slot) (hs : slot ≠ .claim) :
    voidChoice s = { s with zbc := { s.zbc with chosen := none, startIn := 0 } } := by
  cases slot
  · exact absurd rfl hs
  · simp only [voidChoice, h]; rfl
  · simp only [voidChoice, h]; rfl

/-- R15: a void choice leaves nothing chosen, the two other slots filled as they were, and of the claim all but its
record. -/
theorem voidChoice_keeps : (voidChoice s).zbc.chosen = none ∧ (voidChoice s).zbc.releaseSlot = s.zbc.releaseSlot ∧
    (voidChoice s).zbc.announceSlot = s.zbc.announceSlot ∧ (voidChoice s).sru.request = s.sru.request ∧
    (voidChoice s).mayOffer = s.mayOffer := by
  cases h : s.zbc.chosen with
  | none => rw [voidChoice_unchosen h]; exact ⟨h, rfl, rfl, rfl, rfl⟩
  | some slot =>
    by_cases hs : slot = .claim
    · subst hs; rw [voidChoice_claim h]; exact ⟨rfl, rfl, rfl, rfl, rfl⟩
    · rw [voidChoice_other h hs]; exact ⟨rfl, rfl, rfl, rfl, rfl⟩

theorem keepMoment_chosen (n : Nat) (z : Zbc) : (keepMoment n z).chosen = z.chosen := by
  unfold keepMoment; split <;> rfl

/-- R14: an arbitration start that can be made makes the choice afresh, apart from the moment of its start bit. -/
theorem callArbitration_open (h : s.arbitrationOpen = true) : ∃ g : Zbc → Zbc,
    callArbitration s = (chooseSlot (voidChoice s)).modZbc g ∧ (∀ z, (g z).chosen = z.chosen) ∧
    ∀ z, (g z).claimSlot = z.claimSlot := by
  have e : callArbitration s = arbitrate s := if_pos h
  rw [e, arbitrate]
  split
  · rename_i hc
    exact ⟨id, by rw [voidChoice_unchosen hc]; rfl, fun _ => rfl, fun _ => rfl⟩
  · refine ⟨_, rfl, keepMoment_chosen _, fun z => ?_⟩
    unfold keepMoment; split <;> rfl

/-- R14: with no choice standing it is made. -/
theorem callArbitration_unchosen (h : s.arbitrationOpen = true) (hc : s.zbc.chosen = none) :
    callArbitration s = chooseSlot s := by
  have e : callArbitration s = arbitrate s := if_pos h
  rw [e, arbitrate, hc]

/-- R14: a standing choice whose start bit is not sent is made afresh, for the same moment (log 10). -/
theorem callArbitration_chosen {slot : Slot} (h : s.arbitrationOpen = true) (hc : s.zbc.chosen = some slot) :
    callArbitration s = (chooseSlot (voidChoice s)).modZbc (keepMoment s.zbc.startIn) := by
  have e : callArbitration s = arbitrate s := if_pos h
  rw [e, arbitrate, hc]

/-! #### RELEASE and ANNOUNCE -/

theorem chooseSlot_release {r : Frame} (hr : s.zbc.releaseSlot = some r) (ha : s.zbc.announceSlot = none) :
    chooseSlot s = choose .release s := by
  simp only [chooseSlot, hr, ha]

theorem chooseSlot_announce {a : Frame} (hr : s.zbc.releaseSlot = none) (ha : s.zbc.announceSlot = some a) :
    chooseSlot s = choose .announce s := by
  simp only [chooseSlot, hr, ha]

/-- R14: of both the ANNOUNCE is chosen only where its precedence is lower. -/
theorem chooseSlot_both {r a : Frame} (hr : s.zbc.releaseSlot = some r) (ha : s.zbc.announceSlot = some a) :
    chooseSlot s = choose (if a.arb.prec.toNat < r.arb.prec.toNat then .announce else .release) s := by
  simp only [chooseSlot, hr, ha, slotPrec]
  exact (apply_ite (choose · s) _ _ _).symm

/-- R14: with one of the two slots filled no CLAIM is considered. -/
theorem chooseSlot_filled (h : s.zbc.releaseSlot.isSome ∨ s.zbc.announceSlot.isSome) :
    ∃ slot, chooseSlot s = choose slot s := by
  cases hr : s.zbc.releaseSlot with
  | none =>
    cases ha : s.zbc.announceSlot with
    | none => simp [hr, ha] at h
    | some a => exact ⟨_, chooseSlot_announce hr ha⟩
  | some r =>
    cases ha : s.zbc.announceSlot with
    | none => exact ⟨_, chooseSlot_release hr ha⟩
    | some a => exact ⟨_, chooseSlot_both hr ha⟩

/-- Settles O27: an arbitration start makes its choice afresh from the slots as they stand. -/
theorem arbitrationChoosesTheLowestPrecedence : Obligations.ArbitrationChoosesTheLowestPrecedence := by
  refine fun s => ⟨fun h => callArbitration_closed ?_, fun hl hw hn => ?_⟩
  · rw [← Bool.not_eq_true, arbitrationOpen_iff]
    rintro ⟨hl, -, hn⟩
    rcases h with h | h | h | h <;> simp [h] at hl hn
  · obtain ⟨g, e, hchosen, hclaim⟩ := callArbitration_open (arbitrationOpen_iff.2 ⟨hl, hw, hn⟩)
    obtain ⟨-, hvr, hva, -⟩ := voidChoice_keeps (s := s)
    rw [e]
    refine ⟨fun r hr ha => ?_, fun a hr ha => ?_, fun r a hr ha => ?_, fun hc hf => ?_⟩
    · rw [chooseSlot_release (hvr.trans hr) (hva.trans ha)]; exact hchosen _
    · rw [chooseSlot_announce (hvr.trans hr) (hva.trans ha)]; exact hchosen _
    · rw [chooseSlot_both (hvr.trans hr) (hva.trans ha)]; exact hchosen _
    · obtain ⟨slot, ec⟩ := chooseSlot_filled (s := voidChoice s) (by rwa [hvr, hva])
      rw [ec, voidChoice_claim hc]
      exact ⟨hclaim _, rfl⟩

/-! #### The CLAIM -/

theorem mayOffer_iff : s.mayOffer = true ↔ s.zbc.node = .run ∧ s.sru.claim = .waiting ∧ s.bq.hold = false ∧
    s.ownRow = none ∧ s.zbc.releaseSlot = none ∧ s.zbc.announceSlot = none := by
  simp [State.mayOffer]

/-- R31: the fit test. -/
theorem fits_iff (load : Nat) : s.fits load = true ↔
    s.feederLoad + load ≤ s.settings.feederLimit * s.plt.derate / 100 ∧
      s.feederClaims + 1 ≤ s.settings.countLimit := by
  simp [State.fits, State.effectiveLimit]

/-- R14: with both slots empty the choice is the SRU's. -/
theorem chooseSlot_offering (hm : s.mayOffer = true) : chooseSlot s = evaluateClaim s := by
  obtain ⟨-, -, -, -, hr, ha⟩ := mayOffer_iff.1 hm
  simp only [chooseSlot, hr, ha, hm, if_true]

/-- R35: the node once the CLAIM of an offer is chosen. -/
theorem chooseSlot_offer {q : Request} {c : PendingClaim} (hm : s.mayOffer = true) (hq : s.sru.request = some q)
    (hc : s.offerFor q = some c) : chooseSlot s = { s with
      zbc := { s.zbc with
        claimSlot := some (s.claimFrameOf c), chosen := some .claim, startIn := max 1 (bitTimeUs s.settings.bitRate) },
      sru := { s.sru with record := some c } } := by
  rw [chooseSlot_offering hm, evaluateClaim, hq]; dsimp only
  rw [hc]; rfl

/-- R34, R35: a CLAIM that does not fit is not chosen, and nothing changes. -/
theorem chooseSlot_declined {q : Request} (hm : s.mayOffer = true) (hq : s.sru.request = some q)
    (hc : s.offerFor q = none) : chooseSlot s = s := by
  rw [chooseSlot_offering hm, evaluateClaim, hq]; dsimp only
  rw [hc]

/-- R14, R34: a CLAIM newly chosen is the offer of the standing request, made where it may be. -/
theorem chooseSlot_claim (hn : s.zbc.chosen ≠ some .claim) (h : (chooseSlot s).zbc.chosen = some .claim) :
    s.mayOffer = true ∧ ∃ q c, s.sru.request = some q ∧ s.offerFor q = some c := by
  cases hr : s.zbc.releaseSlot with
  | some r =>
    cases ha : s.zbc.announceSlot with
    | none => rw [chooseSlot_release hr ha] at h; cases h
    | some a =>
      rw [chooseSlot_both hr ha] at h
      have h : some (if a.arb.prec.toNat < r.arb.prec.toNat then Slot.announce else .release) = some Slot.claim := h
      split at h <;> cases h
  | none =>
    cases ha : s.zbc.announceSlot with
    | some a => rw [chooseSlot_announce hr ha] at h; cases h
    | none =>
      simp only [chooseSlot, hr, ha] at h
      split at h
      · rename_i hm
        refine ⟨hm, ?_⟩
        cases hq : s.sru.request with
        | none => simp only [evaluateClaim, hq] at h; exact absurd h hn
        | some q =>
          cases hc : s.offerFor q with
          | none => simp only [evaluateClaim, hq, hc] at h; exact absurd h hn
          | some c => exact ⟨q, c, rfl, hc⟩
      · exact absurd h hn

/-- R34, R37, R38: what an offer is computed from does not change with the choice before it. -/
theorem offerFor_voidChoice (q : Request) : (voidChoice s).offerFor q = s.offerFor q := by
  obtain ⟨z, u, e⟩ := voidChoice_changes (s := s)
  rw [e]; rfl

/-- R30, R31, R35, R37, R38: the offer of a request that fits. -/
theorem offerFor_fits {q : Request} (h : s.fits (s.boostedLoadOf q.sched) = true) : s.offerFor q = some {
    feeder := s.settings.feeder, load := s.boostedLoadOf q.sched, lapse := s.lapseUnits q.sched,
    zoneSeq := q.zoneSeq, spotId := q.spotId, prec := 14 - s.urgency q.pass, boost := s.boostNow } := if_pos h

theorem offerFor_declined {q : Request} (h : s.fits (s.boostedLoadOf q.sched) = false) : s.offerFor q = none :=
  if_neg (by simp [h])

/-- R38: the precedence of a CLAIM of MAIN, over the integers. -/
theorem precedence_main : ((14 - s.urgency .main : Nat) : Int) = 14 - max 0 (min 11
    (((12 * s.bodyE / s.bq.basePitch : Nat) : Int) -
      ((12 * resolvedCount s.ssq.plan / s.ssq.plan.length : Nat) : Int) + 4 +
      2 * ((s.bq.queue.length - 1 : Nat) : Int))) := by
  simp only [State.urgency, urgencyOf, State.behindHead]
  omega

/-- R2: a start bit comes within one bit time. -/
theorem startMoment_le (rate : BitRate) : max 1 (bitTimeUs (some rate)) ≤ bitTimeUs (some rate) := by
  cases rate <;> decide

/-- R14, R35: an arbitration start over a standing request that may be offered chooses the offer of that moment, with
the start bit at the moment of the choice before it where one stood. -/
theorem callArbitration_offer {q : Request} {c : PendingClaim} (ho : s.arbitrationOpen = true)
    (hm : s.mayOffer = true) (hq : s.sru.request = some q) (hc : s.offerFor q = some c) :
    callArbitration s = { s with
      zbc := { s.zbc with
        claimSlot := some (s.claimFrameOf c), chosen := some .claim,
        startIn := if s.zbc.chosen = none then max 1 (bitTimeUs s.settings.bitRate) else s.zbc.startIn },
      sru := { s.sru with record := some c } } := by
  cases hs : s.zbc.chosen with
  | none => rw [callArbitration_unchosen ho hs, chooseSlot_offer hm hq hc, if_pos rfl]
  | some slot =>
    obtain ⟨-, -, -, hvq, hvm⟩ := voidChoice_keeps (s := s)
    rw [callArbitration_chosen ho hs, chooseSlot_offer (hvm.trans hm) (hvq.trans hq) ((offerFor_voidChoice q).trans hc)]
    by_cases hslot : slot = .claim
    · subst hslot; rw [voidChoice_claim hs]; rfl
    · rw [voidChoice_other hs hslot]; rfl

/-- Settles O28: a CLAIM is chosen where the standing request leads to an offer, and the offer is made afresh. -/
theorem claimIsChosenOnlyIfItFits : Obligations.ClaimIsChosenOnlyIfItFits := by
  refine ⟨fun s h hclaim => ?only, fun s q hl hw hn hwait hh hrow hr ha hq => ?chosen⟩
  case only =>
    have ho : s.arbitrationOpen = true := by
      rcases h with h | h
      · by_contra hc
        rw [callArbitration_closed (by simpa using hc)] at hclaim
        exact h hclaim
      · exact arbitrationOpen_iff.2 h
    obtain ⟨hvc, -, -, hvq, hvm⟩ := voidChoice_keeps (s := s)
    obtain ⟨g, e, hg, -⟩ := callArbitration_open ho
    have hchoice : (chooseSlot (voidChoice s)).zbc.chosen = some .claim := by
      rw [← hclaim, e]; exact (hg _).symm
    obtain ⟨hm, q, c, hq, hc⟩ := chooseSlot_claim (by rw [hvc]; nofun) hchoice
    rw [hvm] at hm
    rw [hvq] at hq
    rw [offerFor_voidChoice] at hc
    obtain ⟨hn, hwait, hh, hrow, hr, ha⟩ := mayOffer_iff.1 hm
    have hfit : s.fits (s.boostedLoadOf q.sched) = true := by
      by_contra hf
      rw [offerFor_declined (by simpa using hf)] at hc
      cases hc
    obtain ⟨hload, hcount⟩ := (fits_iff _).1 hfit
    rw [callArbitration_offer ho hm hq (offerFor_fits hfit)]
    exact ⟨hn, hwait, hh, hrow, hr, ha, q, _, hq, rfl, rfl, rfl, hload, hcount, rfl⟩
  case chosen =>
    intro c boost load squeeze lapse fit
    have ho := arbitrationOpen_iff.2 ⟨hl, hw, .inr hn⟩
    have hm := mayOffer_iff.2 ⟨hn, hwait, hh, hrow, hr, ha⟩
    refine ⟨fun hfit => ?_, fun hfit => ?_⟩
    · have hc := offerFor_fits ((fits_iff (s.boostedLoadOf q.sched)).2 hfit)
      refine ⟨_, _, callArbitration_offer ho hm hq hc, fun rate hs hb => ?_, fun hp => ?_, fun hp _ _ => ?_⟩
      · rw [if_pos hs, hb]; exact startMoment_le rate
      · rw [hp]; rfl
      · rw [hp]; exact precedence_main
    · have hc : s.offerFor q = none :=
        offerFor_declined (by rw [← Bool.not_eq_true, fits_iff]; exact hfit)
      obtain ⟨-, -, -, hvq, hvm⟩ := voidChoice_keeps (s := s)
      refine ⟨fun hs => ?_, fun hs => ?_⟩
      · rw [callArbitration_unchosen ho hs, chooseSlot_declined hm hq hc]
      · rw [callArbitration_chosen ho hs,
          chooseSlot_declined (hvm.trans hm) (hvq.trans hq) ((offerFor_voidChoice q).trans hc), voidChoice_claim hs]
        rfl

/-! #### The idle point and start bits -/

/-- R2: up to its moment a choice stands while the timers run. -/
theorem elapse_before {n : Nat} (hn : 0 < n) (h : n < s.zbc.startIn) : elapse n s = ageTimers n s := by
  rw [elapse, if_neg (by omega), if_neg (by omega)]

/-- R2: at its moment the start bit is sent. -/
theorem elapse_at {n : Nat} (hn : 0 < n) (h : s.zbc.startIn ≤ n) : elapse n s = sendStart (ageTimers n s) := by
  rw [elapse, if_neg (by omega), if_pos h]

/-- R2, R3, R35: the start bit of a chosen slot that holds a frame. -/
theorem sendStart_chosen {slot : Slot} {f : Frame} (hc : s.zbc.chosen = some slot)
    (hf : slotFrame s.zbc slot = some f) : sendStart s = { s with
      zbc := { s.zbc with
        wire := some slot, line := .busy, chosen := none, startIn := 0, drive := .recessive, txBits := lineBits f },
      sru := if slot = .claim then { s.sru with claim := .offered } else s.sru } := by
  have htx : ((slotFrame s.zbc slot).map lineBits).getD [] = lineBits f := by rw [hf]; rfl
  rw [← htx, sendStart, hc]; dsimp only
  split <;> rfl

theorem onBus_iff : s.onBus = true ↔ s.zbc.node = .joining ∨ s.zbc.node = .run ∨ s.zbc.node = .silent := by
  simp [State.onBus]

/-- Settles O31: what a start bit does beside time, and what the line tells between frames. -/
theorem idlePointAndStartBit : Obligations.IdlePointAndStartBit := by
  refine ⟨fun s n slot f hn hc hf => ?own, fun s hn => ⟨fun hw => ?idle, fun hl => ?other⟩⟩
  case own =>
    intro u
    have hu : u = ageTimers n { s with zbc := { s.zbc with chosen := none } } :=
      elapse_unchosen n (Nat.pos_iff_ne_zero.1 hn) rfl
    refine ⟨fun h => ?_, fun h => ?_⟩
    · rw [elapse_before hn h, hu, ← hc]; rfl
    · have hf' : slotFrame (ageTimers n s).zbc slot = some f := by cases slot <;> exact hf
      rw [elapse_at hn h, sendStart_chosen (s := ageTimers n s) hc hf', hu]
      rfl
  case idle =>
    rw [exec_idlePoint, idlePoint, if_pos ⟨onBus_iff.2 hn, hw⟩]; rfl
  case other =>
    rw [exec_startBit, startBitSeen, if_pos ⟨onBus_iff.2 hn, hl⟩]
    cases hc : s.zbc.chosen with
    | none => rw [voidChoice_unchosen hc]; rfl
    | some slot =>
      cases slot with
      | claim => rw [voidChoice_claim hc]; rfl
      | release => rw [voidChoice_other hc nofun]; rfl
      | announce => rw [voidChoice_other hc nofun]; rfl

end Sys2Proof.Machine

/-! ### Frames heard and attempts ended (R4 to R12, R17, R18, R25 to R29, R40 to R45) -/

namespace Sys2Proof.Machine

variable {s : State}

/-! #### Frames of other nodes -/

theorem listening_iff : s.listening = true ↔ s.decodes = true ∧ s.zbc.wire = none ∧ s.zbc.chosen = none := by
  simp [State.listening]

theorem receiveFrame_deaf (h : s.decodes = false) (f : Frame) : receiveFrame f s = s := if_neg (by simp [h])

theorem discardFrame_deaf (h : s.decodes = false) (d : Drive) : discardFrame d s = s := if_neg (by simp [h])

/-- R4, R5: of a frame that does not complete a listening node keeps what it drove. -/
theorem discardFrame_listening (h : s.listening = true) (d : Drive) : discardFrame d s = s.afterHearing d := by
  obtain ⟨hd, hw, hc⟩ := listening_iff.1 h
  have hw' : (s.afterHearing d).zbc.wire = none := hw
  rw [discardFrame, if_pos hd, sendStart_unchosen hc]
  show reportLoss (s.afterHearing d) = _
  simp only [reportLoss, hw']

/-- R9 to R11: the command of a completed frame is its reception, whatever its kind. -/
theorem exec_frameCommand (id : Nat) (f : Frame) : exec (frameCommand id f) s = .next (receiveFrame f s) := by
  obtain ⟨arb, body⟩ := f
  unfold frameCommand
  split
  · rfl
  · split
    · rfl
    · cases body <;> rfl

/-- Settles O37: a listening node keeps what it drove, a node that decodes nothing is left as it is. -/
theorem framesNotDecodedHaveNoEffect : Obligations.FramesNotDecodedHaveNoEffect := by
  intro s
  refine ⟨fun h => ?listening, fun h => ⟨fun f => ?_, ?_, fun b => ?_⟩⟩
  case listening =>
    simp only [exec_insertionViolation, exec_frameDiscarded, discardFrame_listening h, if_true, Bool.false_eq_true,
      if_false, and_self]
  · rw [exec_frameCommand, receiveFrame_deaf h]
  · rw [exec_insertionViolation, discardFrame_deaf h]
  · rw [exec_frameDiscarded, discardFrame_deaf h]

theorem takeFrame_invalid (told : Bool) {f : Frame} (h : frameValid f = false) : takeFrame told f s = s := if_pos h

/-- R7, R11: a valid frame under the own id raises ID_CLASH unless that has been raised for it. -/
theorem takeFrame_ownId (told : Bool) {f : Frame} (h : frameValid f = true)
    (hid : f.arb.sender.toNat = s.settings.ownId) :
    takeFrame told f s = if told then s else raise .idClash 0 0 0 (byte (kindCode f.body)) s := by
  rw [takeFrame, if_neg (by simp [h]), if_pos hid]; rfl

/-- Settles O38: an invalid frame is dropped by R10 before its sender is looked at. -/
theorem invalidAndOwnIdFramesAreNotApplied : Obligations.InvalidAndOwnIdFramesAreNotApplied := by
  refine fun s f hl => ⟨fun hv => ?_, fun hv hid => ?_⟩
  · rw [exec_invalidFrame, receiveFrame_listening hl, takeFrame_invalid _ hv]
  · rw [exec_ownIdFrame, receiveFrame_listening hl, takeFrame_ownId (s := s.afterHearing .receiptSlot) _ hv hid]

/-! #### The own frame on the wire -/

theorem ownRejected_sending {slot : Slot} {f : Frame} (h : s.sending slot f) :
    ownRejected s = failAttempt slot (kindCode f.body) s := by
  obtain ⟨hw, hs⟩ := onWire_sending h
  rw [hs] at hw
  simp only [ownRejected, hs, hw]

theorem ownCompleted_sending {slot : Slot} {f : Frame} (h : s.sending slot f) (receipt : Bool) :
    ownCompleted receipt s = completeAttempt slot f receipt s := by
  obtain ⟨hw, hs⟩ := onWire_sending h
  rw [hs] at hw
  simp only [ownCompleted, hs, hw]

/-- R7: a bit error fails the attempt, and then the reject slot is driven and ID_CLASH raised, where they are. -/
theorem bitErrorSeen_sending {slot : Slot} {f : Frame} (h : s.sending slot f) (heard : Option ArbField) :
    bitErrorSeen heard s =
      let t := endFrame .rejectSlot (failAttempt slot (kindCode f.body) s)
      if heard = some f.arb then
        (raiseCount .idClash (kindCode f.body) t).modZbc fun z => { z with clashTold := decide (z.node = .silent) }
      else t := by
  obtain ⟨hw, hs⟩ := onWire_sending h
  rw [hs] at hw
  simp only [bitErrorSeen, hs, hw]

/-! #### Failed attempts -/

/-- R17: before the fifteenth failure one more is counted. -/
theorem countFailure_counted (kind : Nat) (h : s.zbc.failures < 15) :
    countFailure kind s = { s with zbc := { s.zbc with failures := s.zbc.failures + 1 } } := by
  have hmin : min Config.silentAfter (s.zbc.failures + 1) = s.zbc.failures + 1 := by
    unfold Config.silentAfter; omega
  have hne : s.zbc.failures + 1 ≠ Config.silentAfter := by unfold Config.silentAfter; omega
  simp only [countFailure, State.modZbc, hmin, hne, false_and, if_false]

/-- R17: the failure after the fifteenth leads a node of JOINING or RUN to SILENT. -/
theorem countFailure_sixteenth (kind : Nat) (h : s.zbc.failures = 15)
    (hn : s.zbc.node = .joining ∨ s.zbc.node = .run) :
    countFailure kind s = enterSilent kind { s with zbc := { s.zbc with failures := 16 } } := by
  have hmin : min Config.silentAfter (s.zbc.failures + 1) = 16 := by rw [h]; rfl
  rw [countFailure, if_pos ⟨hmin, hn⟩]
  simp only [State.modZbc, hmin]

/-- R13, R17: a failed attempt of the ANNOUNCE slot, which keeps its frame. -/
theorem failAttempt_announce (kind : Nat) : failAttempt .announce kind s =
    countFailure kind { s with zbc := { s.zbc with wire := none, line := .busy } } := rfl

/-- R41: a failed attempt of the CLAIM slot, which is told to the SRU before it is counted. -/
theorem failAttempt_claim (kind : Nat) : failAttempt .claim kind s =
    countFailure kind (offerFailed (s.modZbc (slotAfterFailure .claim))) := rfl

/-- R40, R41, R43: an offer that failed, neither withdrawn nor with an expiry held, waits again on its timer. -/
theorem offerFailed_waits {v : Nat} (hc : s.sru.claim = .offered) (he : s.sru.expiryHeld = false)
    (hw : s.sru.withdrawn = false) (ht : s.sru.waitTimer = some v) :
    offerFailed s = { s with sru := { s.sru with claim := .waiting, record := none } } := by
  simp only [offerFailed, hc, he, hw, if_true, Bool.false_eq_true, if_false, State.modSru, enterWaiting, ht,
    Option.getD_some]

/-- Settles O32: the failure is counted on the state its owner was told in. -/
theorem failedAttemptIsCounted : Obligations.FailedAttemptIsCounted := by
  refine fun s f hn hf => ⟨fun hs => ?announce, fun v hs hc he hw ht => ?claim⟩
  case announce =>
    have failed : failAttempt .announce (kindCode f.body) s = { s with
        zbc := { s.zbc with wire := none, line := .busy, failures := s.zbc.failures + 1 } } := by
      rw [failAttempt_announce, countFailure_counted]
      exact hf
    refine ⟨by rw [exec_ownFrameRejected, ownRejected_sending hs, failed], fun heard => ?_⟩
    have hsil : s.zbc.node ≠ .silent := by rcases hn with hn | hn <;> simp [hn]
    rw [exec_bitError, bitErrorSeen_sending hs, failed]
    simp only [endFrame, State.drives, State.modZbc, hsil, if_false, raiseCount, raise, generate, State.modRlk,
      decide_false]
  case claim =>
    rw [exec_ownFrameRejected, ownRejected_sending hs, failAttempt_claim,
      offerFailed_waits (s := s.modZbc (slotAfterFailure .claim)) hc he hw ht, countFailure_counted]
    · rfl
    · exact hf

/-- R17, R18: SILENT entered by the failure of an ANNOUNCE frame, with the reason told. -/
theorem failAttempt_silenced (kind : Nat) (hn : s.zbc.node = .joining ∨ s.zbc.node = .run)
    (hf : s.zbc.failures = 15) : failAttempt .announce kind s = raise .busSilent 0 0 0 (byte kind) { s with
      zbc := { s.zbc with node := .silent, wire := none, line := .busy, failures := 16, claimSlot := none,
                          releaseSlot := none, releaseCancelled := false, joinTimer := none } } := by
  rw [failAttempt_announce, countFailure_sixteenth]
  · rfl
  · exact hf
  · exact hn

/-- Settles O33: the failure leads to SILENT, and what a bit error adds is added there. -/
theorem sixteenthFailureSilencesTheNode : Obligations.SixteenthFailureSilencesTheNode := by
  intro s f hs hn hf told undriven clashed
  have silenced : failAttempt .announce (kindCode f.body) s = told := failAttempt_silenced _ hn hf
  refine ⟨by rw [exec_ownFrameRejected, ownRejected_sending hs, silenced], fun heard => ?_, fun g hsync hv hid => ?_⟩
  · have hd : endFrame .rejectSlot told = undriven := rfl
    rw [exec_bitError, bitErrorSeen_sending hs, silenced, hd]
    rfl
  · obtain ⟨hchosen, -, -⟩ := hs
    have hl : State.listening { clashed with zbc := { clashed.zbc with clashTold := true } } = true := by
      refine listening_iff.2 ⟨?_, rfl, hchosen⟩
      show (decide _ && s.zbc.synced) = true
      rw [hsync]; rfl
    rw [exec_ownIdFrame, receiveFrame_listening hl, takeFrame_ownId]
    · rfl
    · exact hv
    · exact hid

/-! #### Completed attempts -/

/-- R8, R12: a valid own frame that is receipted is applied, and its owner told. -/
theorem completeAttempt_valid {slot : Slot} {f : Frame} (hv : frameValid f = true) (receipt : Bool) :
    completeAttempt slot f receipt s =
      let t := applyFrame true f (s.modZbc fun z => { slotAfterCompletion slot z with failures := 0 })
      reportCompletion slot (if receipt then t else raiseCount .alone (kindCode f.body) t) := by
  simp only [completeAttempt, hv, if_true]

theorem completeAttempt_receipted {slot : Slot} {f : Frame} (hv : frameValid f = true) :
    completeAttempt slot f true s = reportCompletion slot
      (applyFrame true f (s.modZbc fun z => { slotAfterCompletion slot z with failures := 0 })) := by
  simp only [completeAttempt_valid hv, if_true]

/-- R96: with squeeze left and no hold the grant leads to nothing yet. -/
theorem takeGrant_squeezing (hh : s.bq.hold = false) (hl : 0 < s.squeezeLeft) : takeGrant s = s := by
  rw [takeGrant, if_neg (by simp [hh]), fireIfReady, if_neg (by omega)]

/-- R42, R96: a grant with squeeze left and no hold changes the claim alone. -/
theorem grantClaim_squeezing (hc : s.sru.claim = .offered) (hw : s.sru.withdrawn = false)
    (hh : s.bq.hold = false) (hl : 0 < s.squeezeLeft) :
    grantClaim s = { s with sru := { s.sru with claim := .granted, expiryHeld := false } } := by
  have hsru : (s.modSru fun u => { u with claim := .granted, withdrawn := false, expiryHeld := false }) =
      { s with sru := { s.sru with claim := .granted, expiryHeld := false } } := by
    rw [← hw]; rfl
  rw [grantClaim, if_pos hc, hsru, hw]
  exact takeGrant_squeezing (s := { s with sru := { s.sru with claim := .granted, expiryHeld := false } }) hh hl

/-- R26, R42: the node once its own CLAIM has completed with squeeze left and no hold, `r` the row it sets. -/
def State.withGrant (s : State) (r : Row) : State :=
  { s with
    zbc := { s.zbc with wire := none, line := .busy, claimSlot := none, failures := 0 },
    plt := setRow s.settings.ownId (some r) s.plt, sru := { s.sru with claim := .granted, expiryHeld := false } }

/-- R9, R26, R42: an own CLAIM applied sets the row of its sender, and then the claim is granted. -/
theorem applyFrame_ownClaim (arb : ArbField) (feeder : BitVec 2) (load : BitVec 6) (lapse zoneSeq : BitVec 8)
    (spotId : BitVec 10) : applyFrame true { arb := arb, body := .claim feeder load lapse zoneSeq spotId } s =
      grantClaim (s.modPlt (setRow arb.sender.toNat (some (rowOfClaim feeder.toNat load.toNat lapse.toNat zoneSeq.toNat
        spotId.toNat arb.prec.toNat true)))) := rfl

/-- R25: a peer's CLAIM applied sets the row of its sender. -/
theorem applyFrame_peerClaim (arb : ArbField) (feeder : BitVec 2) (load : BitVec 6) (lapse zoneSeq : BitVec 8)
    (spotId : BitVec 10) : applyFrame false { arb := arb, body := .claim feeder load lapse zoneSeq spotId } s =
      s.modPlt (setRow arb.sender.toNat (some (rowOfClaim feeder.toNat load.toNat lapse.toNat zoneSeq.toNat
        spotId.toNat arb.prec.toNat false))) := rfl

theorem setRow_derate (id : Nat) (r : Option Row) (p : Plt) : (setRow id r p).derate = p.derate := by
  unfold setRow; split <;> rfl

theorem frameValid_sender {f : Frame} (h : frameValid f = true) : f.arb.sender.toNat ≠ 0 := by
  simp only [frameValid, Bool.and_eq_true, decide_eq_true_eq] at h
  exact h.1

/-- Settles O34: the row is set, and the grant finds the spot squeezing. -/
theorem ownClaimCompletionGrants : Obligations.OwnClaimCompletionGrants := by
  intro s f receipt feeder load lapse zoneSeq spotId hs hb hv hid hlen hc hw _ hh hl
  obtain ⟨arb, body⟩ := f
  obtain rfl : body = .claim feeder load lapse zoneSeq spotId := hb
  have hid : arb.sender.toNat = s.settings.ownId := hid
  refine ⟨s.withGrant (rowOfClaim feeder.toNat load.toNat lapse.toNat zoneSeq.toNat spotId.toNat arb.prec.toNat true),
    ?exec, ?row, fun id hne => rowOf_setRow_other _ _ _ _ hne, setRow_derate _ _ _, rfl, rfl, rfl, rfl, rfl, rfl, rfl,
    rfl, rfl, rfl, rfl⟩
  case exec =>
    rw [exec_ownFrameCompleted, ownCompleted_sending hs, completeAttempt_valid hv, applyFrame_ownClaim, hid,
      grantClaim_squeezing]
    · rfl
    · exact hc
    · exact hw
    · exact hh
    · exact hl
  case row =>
    have h0 : s.settings.ownId ≠ 0 := hid ▸ frameValid_sender hv
    have hle : s.settings.ownId ≤ s.plt.rows.length := by rw [hlen, ← hid]; omega
    show rowOf (setRow s.settings.ownId _ s.plt) s.settings.ownId = _
    rw [rowOf_setRow_self _ _ _ h0 hle]
    simp only [rowOfClaim, Config.lapseUnitMs, Config.usPerMs, if_true, Nat.add_zero, Nat.mul_assoc, Nat.reduceMul]

/-- R27: a RELEASE clears the row it names. -/
theorem applyFrame_release {own : Bool} {f : Frame} {feeder : BitVec 2} {spotId : BitVec 10} {r : Row}
    (hb : f.body = .release feeder spotId) (hr : rowOf s.plt f.arb.sender.toNat = some r)
    (hf : feeder.toNat = r.feeder) (hs : spotId.toNat = r.spotId) :
    applyFrame own f s = s.modPlt (setRow f.arb.sender.toNat none) := by
  simp only [applyFrame, hb, State.modPlt, applyRelease, hr, hf, hs, and_self, if_true]

/-- R29: a DERATE sets the derate percent of the own feeder. -/
theorem applyDerate_eq (feeder percent : Nat) : applyDerate feeder percent s = { s with
    plt := { s.plt with
      derate := if feeder = s.settings.feeder then clampNat 50 100 percent else s.plt.derate } } := by
  unfold applyDerate; split <;> rfl

/-- R10, R45: the RELEASE of the own row is in its ranges. -/
theorem frameValid_release {feeder id spotId : Nat} (h0 : 1 ≤ id) (h1 : id ≤ 31) (h2 : 1 ≤ spotId)
    (h3 : spotId ≤ 999) : frameValid {
      arb := { prec := 2, sender := BitVec.ofNat 5 id },
      body := .release (BitVec.ofNat 2 feeder) (BitVec.ofNat 10 spotId) } = true := by
  simp only [frameValid, BitVec.toNat_ofNat, Bool.and_eq_true, decide_eq_true_eq]
  omega

/-- R45: the completion of the RELEASE of a RELEASING claim, whose row it has cleared, ends the claim. -/
theorem reportCompletion_release (hc : s.sru.claim = .releasing) (hr : s.ownRow = none) :
    reportCompletion .release s = s.modSru claimOver := if_pos ⟨hc, hr⟩

theorem claimOver_unrequested {u : Sru} (h : u.request = none) :
    claimOver u = { u with claim := .none, record := none } := if_neg (by simp [h])

/-- Settles O35: the frame is applied here as at every other node, and its owner told. -/
theorem ownReleaseAndDerateCompletion : Obligations.OwnReleaseAndDerateCompletion := by
  refine fun s f => ⟨fun r hs hf h1 h31 hlen hr hfd hfd4 hsp1 hsp hc hq => ?release,
    fun feeder percent hs hb h0 => ?derate⟩
  case release =>
    subst hf
    have hid : (BitVec.ofNat 5 s.settings.ownId).toNat = s.settings.ownId := by
      rw [BitVec.toNat_ofNat]; omega
    have hfeeder : (BitVec.ofNat 2 s.settings.feeder).toNat = r.feeder := by
      rw [BitVec.toNat_ofNat]; omega
    have hspot : (BitVec.ofNat 10 r.spotId).toNat = r.spotId := by
      rw [BitVec.toNat_ofNat]; omega
    have hn0 : s.settings.ownId ≠ 0 := by omega
    have hrow : rowOf s.plt (BitVec.ofNat 5 s.settings.ownId).toNat = some r := by rw [hid]; exact hr
    have hcleared : rowOf (setRow s.settings.ownId none s.plt) s.settings.ownId = none :=
      rowOf_setRow_self _ _ _ hn0 (by omega)
    rw [exec_ownFrameCompleted, ownCompleted_sending hs,
      completeAttempt_receipted (frameValid_release h1 h31 hsp1 hsp),
      applyFrame_release (r := r) rfl hrow hfeeder hspot, hid, reportCompletion_release]
    · simp only [State.modSru, State.modPlt, State.modZbc, claimOver_unrequested hq, setRow, hn0, if_false]
      rfl
    · exact hc
    · exact hcleared
  case derate =>
    obtain ⟨arb, body⟩ := f
    obtain rfl : body = .derate feeder percent := hb
    have hv : frameValid { arb := arb, body := .derate feeder percent } = true := by
      have hne : arb.sender.toNat ≠ 0 := fun he => h0 (BitVec.eq_of_toNat_eq he)
      simp [frameValid, hne]
    rw [exec_ownFrameCompleted, ownCompleted_sending hs, completeAttempt_receipted hv]
    simp only [applyFrame, applyDerate_eq]
    rfl

/-! #### A lost attempt -/

/-- R6, R9: a peer's frame heard while another frame of the own is on the wire is applied, and then the loss told. -/
theorem receiveFrame_loses {slot : Slot} {own f : Frame} (hd : s.decodes = true) (hs : s.sending slot own)
    (hne : own ≠ f) (hp : s.peerFrame f) :
    receiveFrame f s = reportLoss (applyFrame false f (s.afterHearing .receiptSlot)) := by
  obtain ⟨hw, hst⟩ := onWire_sending hs
  rw [hst] at hw
  simp only [receiveFrame, hd, if_true, hst, hw, hne, if_false]
  show reportLoss (takeFrame s.zbc.clashTold f (s.afterHearing .receiptSlot)) = _
  rw [takeFrame_peer hp]

/-- R40: a loss of the own CLAIM is told to the SRU. -/
theorem reportLoss_claim (h : s.zbc.wire = some .claim) :
    reportLoss s = offerFailed (s.modZbc (slotAfterFailure .claim)) := by
  simp only [reportLoss, h, if_true]

/-- Settles O36: the peer's row is set, and the failed offer waits again. -/
theorem lostClaimReturnsToWaiting : Obligations.LostClaimReturnsToWaiting := by
  intro s own arb feeder load lapse zoneSeq spotId v hd hs hown hp hc he hw ht
  have hne : own ≠ { arb := arb, body := .claim feeder load lapse zoneSeq spotId } := by
    rintro rfl; exact hp.2 hown
  have h0 : arb.sender.toNat ≠ 0 := peerFrame_sender hp
  obtain ⟨-, hwire, -⟩ := id hs
  rw [exec_claimFrame, receiveFrame_loses hd hs hne hp, applyFrame_peerClaim, reportLoss_claim,
    offerFailed_waits (v := v)]
  · simp only [setRow, h0, if_false, State.modPlt]; rfl
  · exact hc
  · exact he
  · exact hw
  · exact ht
  · exact hwire

end Sys2Proof.Machine

/-! ### Rows that lapse and requests that are raised (R28, R32, R33, R46, R95, R97, R142) -/

namespace Sys2Proof.Machine

variable {s : State}

/-! #### A row that lapses -/

theorem rowOf_some_ne_zero {p : Plt} {id : Nat} {r : Row} (h : rowOf p id = some r) : id ≠ 0 := by
  rintro rfl; cases h

/-- R28: the command of a lapse whose time has run out. -/
theorem exec_rowLapse_due {id : BitVec 5} {r : Row} (h : rowOf s.plt id.toNat = some r) (h0 : r.lapse = 0) :
    exec (.rowLapse id) s = .next (lapseRow id.toNat s) := by
  have hl : s.lapseLeft id.toNat = some 0 := by rw [State.lapseLeft, h, Option.map_some, h0]
  rw [exec_rowLapse, hl]; rfl

theorem setRow_clear {id : Nat} (h : id ≠ 0) :
    s.modPlt (setRow id none) = { s with plt := { s.plt with rows := s.plt.rows.set (id - 1) none } } := by
  simp only [State.modPlt, setRow, h, if_false]

theorem lapseRow_peer {id : Nat} (h : id ≠ s.settings.ownId) :
    lapseRow id s = callArbitration (s.modPlt (setRow id none)) := by
  simp only [lapseRow, h, if_false]

theorem lapseRow_own {id : Nat} (h : id = s.settings.ownId) :
    lapseRow id s = callArbitration (ownRowLapsed (s.modPlt (setRow id none))) := by
  simp only [lapseRow, h, if_true]

theorem callArbitration_plt : (callArbitration s).plt = s.plt := by
  obtain ⟨_, _, e⟩ := callArbitration_changes (s := s)
  rw [e]

theorem cancelRelease_plt : (cancelRelease s).plt = s.plt := by
  unfold cancelRelease
  split
  · rfl
  · split
    · obtain ⟨_, _, e⟩ := voidChoice_changes (s := s)
      rw [e]; rfl
    · rfl

/-- R46: the loss of the own slot clears no row. -/
theorem ownRowLapsed_plt : (ownRowLapsed s).plt = s.plt := by
  unfold ownRowLapsed
  split
  · exact cancelRelease_plt
  · exact (slotLost_keeps (s := s.modSru claimOver)).1
  · rfl
  · rfl
  · rfl

/-- R28: whatever else a lapse does, it clears that row alone. -/
theorem lapseRow_plt (id : Nat) : (lapseRow id s).plt = setRow id none s.plt := by
  by_cases h : id = s.settings.ownId
  · rw [lapseRow_own h, callArbitration_plt, ownRowLapsed_plt]; rfl
  · rw [lapseRow_peer h, callArbitration_plt]; rfl

/-! #### The own row (R46) -/

/-- R16, R46: the lapse of a RELEASING claim with no attempt and no choice on the line cancels the RELEASE. -/
theorem ownRowLapsed_releasing (hc : s.sru.claim = .releasing) (hw : s.zbc.wire = none) (hn : s.zbc.chosen = none) :
    ownRowLapsed s = { s with
      zbc := { s.zbc with releaseSlot := none, releaseCancelled := false }, sru := claimOver s.sru } := by
  have e : ownRowLapsed s = (cancelRelease s).modSru claimOver := by simp only [ownRowLapsed, hc]
  rw [e, cancelRelease, if_neg (by simp [hw]), if_neg (by simp [hn])]; rfl

theorem ownRowLapsed_granted (hc : s.sru.claim = .granted) : ownRowLapsed s = slotLost (s.modSru claimOver) := by
  simp only [ownRowLapsed, hc]

theorem claimOver_requested {u : Sru} {v : Nat} (h : u.request.isSome) (ht : u.waitTimer = some v) :
    claimOver u = { u with claim := .waiting, record := none } := by
  rw [claimOver, if_pos h, enterWaiting, ht]; rfl

/-- R46: a slot lost before FIRING and after current is lost to the claim alone. -/
theorem slotLost_notFiring (h : s.ssq.state ≠ .firing) : slotLost s = s := by
  unfold slotLost; split
  · exact absurd ‹_› h
  · rfl
  · exact absurd ‹_› h
  · rfl

/-- R142: a slot lost in current or while an abort runs makes the next update the end. -/
theorem slotLost_firing (h : s.ssq.state = .firing) (hp : s.cpg.phase ≠ .prestart) (ho : s.cpg.phase ≠ .off) :
    slotLost s = (takeAbort .stage .cut s).modCpg fun c => { c with slotLost := true } := by
  unfold slotLost; split
  · exact absurd ‹_› hp
  · exact absurd ‹_› ho
  · rfl
  · exact absurd h ‹_›

theorem slotLost_inCurrent (h : s.ssq.state = .firing) (hc : s.inCurrent) : slotLost s = { s with
    cpg := { s.cpgAborting .stage .cut with slotLost := true }, wmn := s.wmnCut } := by
  have hp : s.cpg.phase ≠ .prestart := by rcases hc with h | h | h | h <;> simp [h]
  have ho : s.cpg.phase ≠ .off := by rcases hc with h | h | h | h <;> simp [h]
  rw [slotLost_firing h hp ho, takeAbort_inCurrent hc]; rfl

theorem slotLost_aborting (h : s.ssq.state = .firing) (hp : s.cpg.phase = .aborting) :
    slotLost s = { s with cpg := { s.cpg with slotLost := true } } := by
  rw [slotLost_firing h (by simp [hp]) (by simp [hp]), takeAbort_outside (by simp [State.inCurrent, hp])]; rfl

theorem slotLost_prestart (h : s.ssq.state = .firing) (hp : s.cpg.phase = .prestart) :
    slotLost s = closeResolved .missed .stage (standDown s) := by
  simp only [slotLost, h, hp]; rfl

theorem midPlan_link {h : SpotInHand} {e next : PlanEntry} {b : ActiveBody} (hm : s.midPlan h e next b) :
    s.sgl.link ≠ .fault := by
  obtain ⟨-, -, -, -, -, -, -, -, -, hl⟩ := hm
  exact hl

/-- R100: the spot in hand stays the one of the plan when its PRESTART is left. -/
theorem midPlan_standDown {h : SpotInHand} {e next : PlanEntry} {b : ActiveBody} (hm : s.midPlan h e next b) :
    (standDown s).midPlan h e next b := by
  have hl : (standDown s).sgl.link ≠ .fault := by
    show (leaveActive s.sgl).link ≠ .fault
    rw [leaveActive_idle (midPlan_link hm)]; nofun
  obtain ⟨h1, h2, h3, h4, h5, h6, h7, h8, h9, -⟩ := hm
  exact ⟨h1, h2, h3, h4, h5, h6, h7, h8, h9, hl⟩

/-- R46, R100: the slot of a spot of PRESTART lost while its request stands: the visit ends with the claim NONE. -/
theorem slotLost_midPlan {h : SpotInHand} {e next : PlanEntry} {b : ActiveBody} (hs : s.ssq.state = .firing)
    (hp : s.cpg.phase = .prestart) (hw : s.sru.claim = .waiting) (hc : s.zbc.chosen ≠ some .claim)
    (hm : s.midPlan h e next b) : slotLost s = { standDown s with
      rlk := s.rlkMissed b e .stage h.earlyOpen, ssq := s.ssqMissed .stage,
      sru := { s.sru.visitOver .none with record := none } } := by
  rw [slotLost_prestart hs hp, closeResolved_midPlan (midPlan_standDown hm), endVisit_waiting]
  · rfl
  · exact hw
  · exact hc

/-- Settles O46: the row is cleared, and the own slot is lost with it in the state the sequencer is in. -/
theorem lapsedRowIsCleared : Obligations.LapsedRowIsCleared := by
  intro s id r hr h0 cleared
  have he := exec_rowLapse_due hr h0
  have hclear : s.modPlt (setRow id.toNat none) = cleared := setRow_clear (rowOf_some_ne_zero hr)
  have own : id.toNat = s.settings.ownId → ∀ {t : State}, ownRowLapsed cleared = t →
      exec (.rowLapse id) s = .next (callArbitration t) := by
    rintro hid t rfl
    rw [he, lapseRow_own hid, hclear]
  have granted : s.sru.claim = .granted → ∀ {u : Sru} {t : State}, claimOver s.sru = u →
      slotLost { cleared with sru := u } = t → ownRowLapsed cleared = t := by
    rintro hc u t rfl rfl
    exact ownRowLapsed_granted (s := cleared) hc
  refine ⟨⟨_, he, ?plt⟩, fun hid => ?peer, fun hid hc hq hw hn => own hid ?releasing,
    fun hid hc hq hs => own hid (granted hc (claimOver_unrequested hq) (slotLost_notFiring hs)),
    fun v hid hc hq ht => ?requested⟩
  case plt => rw [lapseRow_plt]; exact congrArg State.plt hclear
  case peer => rw [he, lapseRow_peer hid, hclear]
  case releasing =>
    rw [ownRowLapsed_releasing (s := cleared) hc hw hn, show claimOver cleared.sru = _ from claimOver_unrequested hq]
  case requested =>
    intro waits
    have lost : ∀ {t : State}, slotLost waits = t → exec (.rowLapse id) s = .next (callArbitration t) :=
      fun h => own hid (granted hc (claimOver_requested hq ht) h)
    refine ⟨fun hs => lost (slotLost_notFiring (s := waits) (by rw [show waits.ssq.state = _ from hs]; nofun)),
      fun hs hcur => lost (slotLost_inCurrent (s := waits) hs hcur),
      fun hs hp => lost (slotLost_aborting (s := waits) hs hp), fun h e next b hs hp hnc hm => ?_⟩
    refine ⟨_, lost (slotLost_midPlan (s := waits) hs hp rfl hnc hm), ?_⟩
    generalize ht : (State.mk _ _ _ _ _ _ _ _ _ _ _ _ _ _ _) = t
    have hsru : (callArbitration t).sru = t.sru := by
      refine callArbitration_unclaimed ?_ ?_ <;> rw [← ht]
      · nofun
      · exact hnc
    have hrel := (callArbitration_keeps (s := t)).1
    obtain ⟨z, u, e'⟩ := callArbitration_changes (s := t)
    rw [hsru, hrel, e', ← ht]
    exact ⟨rfl, rfl, rfl, rfl, rfl, rfl, rfl, leaveActive_idle (midPlan_link hm)⟩

/-! #### The claim lead -/

/-- R95: the command of a squeeze that stands at the claim lead. -/
theorem exec_claimLeadReached_due (hs : s.ssq.state = .squeeze) (hq : s.sru.request = none) (hh : s.bq.hold = false)
    (hl : s.squeezeLeft ≤ s.leadUs) : exec .claimLeadReached s = .next (raiseRequest s) := by
  have h0 : s.leadLeft = some 0 := by rw [State.leadLeft, if_pos ⟨hs, hq, hh⟩, Nat.sub_eq_zero_of_le hl]
  rw [exec_claimLeadReached, h0]; rfl

/-- R32, R33: the request of the spot in hand, by the oversize test of a first request. -/
theorem raiseRequest_entry {h : SpotInHand} {e : PlanEntry} {b : ActiveBody} (hh : s.ssq.inHand = some h)
    (hb : s.ssq.active = some b) (he : s.ssq.plan[h.planIdx]? = some e) :
    raiseRequest s = if s.oversize e.sched then closeResolved .missed .oversize s
      else callArbitration (s.modSru (standRequest (requestFor s e b h.planIdx))) := by
  simp only [raiseRequest, hh, hb, he]

theorem oversize_iff (sched : Nat) : s.oversize sched = true ↔ s.sru.visitRequested = false ∧
    s.settings.feederLimit * s.plt.derate / 100 <
      boostedLoad (scheduleOf s.pst sched).load (boostOf s.pst s.cpg.w) := by
  rw [State.oversize, decide_eq_true_iff]; rfl

theorem standRequest_none {q : Request} {u : Sru} (h : u.claim = .none) : standRequest q u = { u with
    claim := .waiting, record := none, waitTimer := some (u.waitTimer.getD 0), visitRequested := true,
    request := some q } := by
  simp only [standRequest, h]; rfl

theorem standRequest_waits {q : Request} {u : Sru} (h : u.claim ≠ .none) :
    standRequest q u = { u with visitRequested := true, request := some q } := by
  unfold standRequest; split
  · exact absurd ‹_› h
  all_goals rfl

theorem endVisit_noClaim (h : s.sru.claim = .none) : endVisit s = { s with sru := s.sru.visitOver .none } := by
  rw [endVisit_unclaimed (.inl h), h]

/-- R91, R97: a spot resolved and closed without a claim leaves bus, table and current alone, with the claim NONE and
its timer discarded. -/
theorem closeResolved_noClaim {h : SpotInHand} (o : Outcome) (c : Cause) (hh : s.ssq.inHand = some h)
    (hc : s.sru.claim = .none) : (closeResolved o c s).sru.claim = .none ∧ (closeResolved o c s).sru.waitTimer = none ∧
      (closeResolved o c s).plt = s.plt ∧ (closeResolved o c s).zbc = s.zbc ∧ (closeResolved o c s).cpg = s.cpg := by
  obtain ⟨k, e⟩ := closeSpot_noClaim (s := s.modSsq (resolveEntry h.planIdx o c)) (h := h) hh hc
  have hr : closeResolved o c s = closeSpot (s.modSsq (resolveEntry h.planIdx o c)) := by
    simp only [closeResolved, hh]
  rw [hr, e]
  generalize ht : (State.mk _ _ _ _ _ _ _ _ _ _ _ _ _ _ _) = t
  obtain ⟨_, _, _, e'⟩ := afterClose_changes (s := t)
  rw [e', ← ht]
  exact ⟨rfl, rfl, rfl, rfl, rfl⟩

/-- Settles O48: the oversize test of a first request decides between the request and the closing of the spot. -/
theorem claimLeadRaisesTheRequest : Obligations.ClaimLeadRaisesTheRequest := by
  intro s h e b hs hh hb he hhold hq hl
  have hleft : s.squeezeLeft ≤ s.leadUs := by simp only [State.squeezeLeft, hh]; exact hl
  have raised : exec .claimLeadReached s = .next (raiseRequest s) := exec_claimLeadReached_due hs hq hhold hleft
  rw [raised, raiseRequest_entry hh hb he]
  refine ⟨fun hfit => ?fits, fun hc hv ht hover => ?oversize⟩
  case fits =>
    intro q
    have hno : ¬s.oversize e.sched = true := by
      rw [oversize_iff]
      rintro ⟨hv, hlt⟩
      rcases hfit with hfit | hfit
      · simp [hv] at hfit
      · omega
    rw [if_neg hno]
    refine ⟨fun hc => ?_, fun hc => ?_⟩
    · show Host.Outcome.next (callArbitration { s with sru := standRequest q s.sru }) = _
      rw [standRequest_none hc]
    · have hne : s.sru.claim ≠ .none := by rcases hc with hc | ⟨hc, -⟩ <;> simp [hc]
      show Host.Outcome.next (callArbitration { s with sru := standRequest q s.sru }) = _
      rw [standRequest_waits hne]
  case oversize =>
    rw [if_pos ((oversize_iff _).2 ⟨hv, hover⟩)]
    refine ⟨⟨_, rfl, closeResolved_noClaim _ _ hh hc⟩, fun next hm => ?_,
      fun i rest hp hres hend hlink hcur hdef hnd => ?_⟩
    · rw [closeResolved_midPlan hm, endVisit_noClaim]
      exact hc
    · rw [closeResolved_revisit hh hres he hb hp hend hlink hcur hdef hnd, endVisit_noClaim]
      · rfl
      · exact hc

end Sys2Proof.Machine

/-! ### What an offer carries (R30, R35, R37 to R39, R77, R78) -/

namespace Sys2Proof.Machine

variable {s : State}

/-- R38: the urgency is clamped to 0..11. -/
theorem urgency_le (p : Pass) : s.urgency p ≤ 11 := by
  cases p
  · simp only [State.urgency, urgencyOf]; omega
  · exact le_rfl

/-- R35, R39: the precedence of an offer. -/
theorem offerFor_prec {q : Request} {c : PendingClaim} (h : s.offerFor q = some c) :
    c.prec = 14 - s.urgency q.pass := by
  cases hf : s.fits (s.boostedLoadOf q.sched) with
  | true => rw [offerFor_fits hf, Option.some.injEq] at h; rw [← h]
  | false => rw [offerFor_declined hf] at h; cases h

/-- Settles O29: the precedence is 14 less an urgency of 0..11. -/
theorem claimPrecedenceLiesInThreeToFourteen : Obligations.ClaimPrecedenceLiesInThreeToFourteen := by
  intro s q c h
  have hu := urgency_le (s := s) q.pass
  rw [offerFor_prec h]
  refine ⟨by omega, by omega, fun hp => ?_, fun hp _ _ => ?_⟩
  · rw [hp]; rfl
  · rw [hp]; exact precedence_main

theorem le_ceilDiv_mul (n : Nat) {d : Nat} (h : 0 < d) : n ≤ ceilDiv n d * d := by
  have hd := Nat.div_add_mod (n + (d - 1)) d
  have hm := Nat.mod_lt (n + (d - 1)) h
  rw [ceilDiv, Nat.mul_comm]; omega

/-- R78: what the mark USABLE says of D + X. -/
theorem usable_profile_le {presence : Nat} {c : Schedule} (h : scheduleMark presence c = .usable) :
    profileMs c + reserveMs c ≤ 440 := by
  unfold scheduleMark at h
  split at h
  · cases h
  · split at h
    · rename_i hc
      obtain ⟨-, -, hle⟩ := hc
      exact hle
    · cases h

/-- R37: r is at most the claim lead, and covers what is left of the squeeze up to it. -/
theorem lapseSqueeze_bounds : s.lapseSqueeze ≤ max 1 s.settings.claimLead ∧
    min s.squeezeLeft (s.settings.claimLead * 1000) ≤ s.lapseSqueeze * 1000 := by
  have hc : s.squeezeLeft ≤ ceilDiv s.squeezeLeft Config.usPerMs * 1000 := le_ceilDiv_mul _ (by decide)
  unfold State.lapseSqueeze
  omega

/-- Settles O30: r is at most 60 ms, D + X at most 440 ms, and the quotient is rounded up. -/
theorem usableScheduleLapseFitsTheFrame : Obligations.UsableScheduleLapseFitsTheFrame := by
  intro s n presence hlead hmark
  obtain ⟨hr, hcover⟩ := lapseSqueeze_bounds (s := s)
  have hdx := usable_profile_le hmark
  simp only [State.lapseUnits, ceilDiv, Config.guardUnits]
  omega

end Sys2Proof.Machine

/-! ### The row record (R36, R161, R177 to R179, R193) -/

namespace Sys2Proof.Machine

variable {s : State}

/-- A run of bytes that fits is filled up with zero bytes. -/
theorem padTo_of_length_le {n : Nat} {bs : List Byte} (h : bs.length ≤ n) :
    padTo n bs = bs ++ List.replicate (n - bs.length) 0 := by
  rw [padTo, List.take_append, List.take_of_length_le h, List.take_replicate, Nat.min_eq_left (Nat.sub_le _ _)]

/-- R161, R178: what a READ-ROW outside LOADING does. -/
theorem takeRow_answered (h : s.zbc.node ≠ .loading) : takeRow s = { s with rlk := { s.rlk with
    out := s.portByte :: s.rowRecord ++ List.replicate s.clockedBeyond 0,
    cursorIndex := min (s.rlk.cursorIndex + 1) (tableEnd s.rlk.cursorTable) } } := by
  have hl : (s.portByte :: s.rowRecord).length = 29 := by rw [List.length_cons, rowRecord_length]
  have hp : padTo 29 (s.portByte :: s.rowRecord) = s.portByte :: s.rowRecord := by
    rw [padTo_of_length_le hl.le, hl, Nat.sub_self, List.replicate_zero, List.append_nil]
  rw [takeRow, dataOut, if_neg h, shiftOut, hp]; rfl

/-- R178: past the last row the record is the end marker. -/
theorem rowRecord_end (h : tableEnd s.rlk.cursorTable ≤ s.rlk.cursorIndex) :
    s.rowRecord = [byte (tableCode s.rlk.cursorTable), 255, 255] ++ List.replicate 25 0 := by
  simp only [State.rowRecord, Nat.not_lt.2 h, if_false]
  exact padTo_of_length_le (n := 28) (bs := [byte (tableCode s.rlk.cursorTable), 255, 255]) (by simp)

/-- R179: the content of a row fits in its record. -/
theorem rowContent_length_le (t : Table) (i : Nat) : (s.rowContent t i).length ≤ 25 := by
  cases t with
  | plt => simp only [State.rowContent]; cases rowOf s.plt i <;> simp [pltContent, bytes2]
  | bq => simp only [State.rowContent]; cases s.bq.queue[i]? <;> simp [bqContent, bytes2, bytes3]
  | plan => simp only [State.rowContent]; cases s.ssq.plan[i]? <;> simp [planContent, bytes2]
  | deferred => simp only [State.rowContent]; cases s.ssq.deferred[i]? <;> simp [State.deferredContent, bytes2]
  | pitch => simp [State.rowContent, bytes2]
  | learned => simp [State.rowContent, bytes2]
  | schedule => simp [State.rowContent, scheduleContent, scheduleBytes, bytes2]

/-- R193: the record of a row: table code, index, content and zero bytes. -/
theorem rowRecord_row (h : s.rlk.cursorIndex < tableEnd s.rlk.cursorTable) {content : List Byte}
    (hc : s.rowContent s.rlk.cursorTable s.rlk.cursorIndex = content) :
    s.rowRecord = [byte (tableCode s.rlk.cursorTable), byte (s.rlk.cursorIndex / 256), byte s.rlk.cursorIndex] ++
      content ++ List.replicate (25 - content.length) 0 := by
  have hl : content.length ≤ 25 := hc ▸ rowContent_length_le _ _
  simp only [State.rowRecord, h, if_true, hc]
  rw [padTo_of_length_le (by simp [bytes2]; omega)]
  simp only [bytes2, List.cons_append, List.nil_append, List.length_cons]
  rw [show 28 - (content.length + 1 + 1 + 1) = 25 - content.length by omega]

/-- R77, R193: the D shown where the sum is not negative. -/
theorem shownProfile_of_sum {c : Schedule} {sum : Nat} (h : (sum : Int) = profileInt c) :
    shownProfile c = min 65535 sum := by
  rw [shownProfile, ← h, if_neg (by omega), Int.toNat_natCast, sat16, Nat.min_comm]

/-- R36, R193: the X shown. -/
theorem shownReserve_eq (c : Schedule) :
    shownReserve c = min 65535 (if c.retry = 1 then c.cool + c.pulse else 0) := Nat.min_comm _ _

theorem recordCodes_hold : recordCodes := by unfold recordCodes; decide

/-- Settles O16: the record is that of the row the cursor stands at, by the layout of its table. -/
theorem readRowReturnsTheRowAndAdvances : Obligations.ReadRowReturnsTheRowAndAdvances := by
  refine ⟨recordCodes_hold, fun s hn => ⟨s.rowRecord, ?next, rowRecord_end, fun hi => ?row⟩⟩
  case next =>
    have hc : min (s.rlk.cursorIndex + 1) (tableEnd s.rlk.cursorTable) =
        if s.rlk.cursorIndex < tableEnd s.rlk.cursorTable then s.rlk.cursorIndex + 1
        else tableEnd s.rlk.cursorTable := by split <;> omega
    rw [← hc]; exact congrArg _ (takeRow_answered hn)
  case row =>
    intro i row
    have shown : ∀ {content : List Byte}, s.rowContent s.rlk.cursorTable i = content → row content := rowRecord_row hi
    clear_value row
    cases ht : s.rlk.cursorTable <;> rw [ht] at shown <;> dsimp only
    case plt =>
      refine ⟨fun h => shown ?_, fun r h => shown ?_⟩ <;> rw [State.rowContent, h] <;> rfl
    case bq =>
      refine ⟨fun h => shown (by rw [State.rowContent, List.getElem?_eq_none h]; rfl), fun r h => shown ?_⟩
      rw [State.rowContent, h, bqContent]
      cases r.exitTaken <;> rfl
    case plan =>
      refine ⟨fun h => shown (by rw [State.rowContent, List.getElem?_eq_none h]; rfl), fun e h => shown ?_⟩
      rw [State.rowContent, h]; rfl
    case deferred =>
      refine ⟨fun h => shown (by rw [State.rowContent, List.getElem?_eq_none h]; rfl), fun k e h he => shown ?_⟩
      rw [State.rowContent, h, State.deferredContent, State.spotAt, he]; rfl
    case pitch => exact shown rfl
    case learned => exact shown rfl
    case schedule =>
      refine ⟨shownProfile (scheduleOf s.pst i), shown ?_, fun sum hsum => shownProfile_of_sum hsum⟩
      rw [← shownReserve_eq]; rfl

end Sys2Proof.Machine

/-! ### Peers' frames and the end of a body from outside (R25 to R29, R56, R57, R117, R167) -/

namespace Sys2Proof.Machine

variable {s : State}

theorem exec_releaseFrame (arb : ArbField) (feeder : BitVec 2) (spotId : BitVec 10) (s : State) :
    exec (.releaseFrame arb feeder spotId) s =
      .next (receiveFrame { arb := arb, body := .release feeder spotId } s) := rfl
theorem exec_derateFrame (arb : ArbField) (feeder : BitVec 2) (percent : BitVec 8) (s : State) :
    exec (.derateFrame arb feeder percent) s =
      .next (receiveFrame { arb := arb, body := .derate feeder percent } s) := rfl
theorem exec_exitFrame (arb : ArbField) (serial : BitVec 24) (s : State) :
    exec (.exitFrame arb serial) s = .next (receiveFrame { arb := arb, body := .exit serial } s) := rfl
theorem exec_abandonBody (s : State) : exec .abandonBody s = .next (writeB takeAbandon s) := rfl

/-! #### CLAIM, RELEASE and DERATE of peers -/

/-- R27: a RELEASE clears the row of its sender where feeder and spot id match, and nothing else. -/
theorem applyRelease_eq {id : Nat} (h0 : id ≠ 0) (feeder spotId : Nat) (p : Plt) : applyRelease id feeder spotId p =
    if (rowOf p id).any (fun r => r.feeder == feeder && r.spotId == spotId) then
      { p with rows := p.rows.set (id - 1) none } else p := by
  cases hr : rowOf p id with
  | none => simp [applyRelease, hr]
  | some r => simp [applyRelease, hr, setRow, h0]

/-- Settles O39: each of the three frames is applied to the table. -/
theorem peerTableFollowsPeerFrames : Obligations.PeerTableFollowsPeerFrames := by
  refine fun s arb hl => ⟨fun feeder load lapse zoneSeq spotId hp => ?claim, fun feeder spotId hp => ?release,
    fun feeder percent hp => ?derate⟩
  case claim =>
    have h0 : arb.sender.toNat ≠ 0 := peerFrame_sender hp
    rw [exec_claimFrame, receiveFrame_peer hl hp, applyFrame_peerClaim]
    simp only [State.modPlt, setRow, h0, if_false]; rfl
  case release =>
    have h0 : arb.sender.toNat ≠ 0 := peerFrame_sender hp
    rw [exec_releaseFrame, receiveFrame_peer hl hp]
    refine congrArg _ ?_
    simp only [applyFrame, State.modPlt, applyRelease_eq h0]
    split
    · rename_i h; exact (if_pos h).symm
    · rename_i h; exact (if_neg h).symm
  case derate =>
    rw [exec_derateFrame, receiveFrame_peer hl hp]
    refine congrArg _ ?_
    by_cases hf : feeder.toNat = s.settings.feeder
    · rw [if_pos hf]; exact if_pos hf
    · rw [if_neg hf]; exact if_neg hf

/-! #### EXIT frames -/

/-- R56: an EXIT of a serial that no record carries. -/
theorem applyExit_unknown {serial : Nat} (h : ∀ r ∈ s.bq.queue, r.serial ≠ serial) : applyExit serial s = s := by
  cases hq : s.bq.queue with
  | nil => simp only [applyExit, hq]
  | cons r rest =>
    rw [hq, List.forall_mem_cons] at h
    have hf : rest.find? (fun x => decide (x.serial = serial)) = none :=
      List.find?_eq_none.2 fun x hx => by simpa using h.2 x hx
    simp only [applyExit, hq, h.1, if_false, hf]

/-- R56: an EXIT of the head whose exit is taken. -/
theorem applyExit_again {r : BodyRecord} {rest : List BodyRecord} (hq : s.bq.queue = r :: rest)
    (ht : r.exitTaken = true) : applyExit r.serial s = s := by
  simp only [applyExit, hq, ht, if_true]

/-- R57: an EXIT of a body behind the head. -/
theorem applyExit_behind {serial : Nat} {a b : List BodyRecord} {x : BodyRecord} (ha : a ≠ [])
    (hq : s.bq.queue = a ++ x :: b) (hx : x.serial = serial) (hn : ∀ r ∈ a, r.serial ≠ serial) :
    applyExit serial s = generate (exitedReport x) { s with bq := { s.bq with queue := a ++ b } } := by
  cases a with
  | nil => exact absurd rfl ha
  | cons r t =>
    rw [List.forall_mem_cons] at hn
    have other : ∀ y ∈ t, ¬decide (y.serial = serial) = true := fun y hy => by simpa using hn.2 y hy
    have hf : (t ++ x :: b).find? (fun x => decide (x.serial = serial)) = some x :=
      List.find?_eq_some_iff_append.2 ⟨decide_eq_true hx, t, b, rfl, fun y hy => by simpa using other y hy⟩
    have he : (t ++ x :: b).eraseP (fun x => decide (x.serial = serial)) = t ++ b := by
      rw [List.eraseP_append_right _ other, List.eraseP_cons, decide_eq_true hx, cond_true]
    rw [List.cons_append] at hq
    simp only [applyExit, hq, hn.1, if_false, hf, State.modBq, removeQueued, he, List.cons_append]

/-- R56: the exit of the head is taken, and ends the active body. -/
theorem applyExit_head {r : BodyRecord} {rest : List BodyRecord} (hq : s.bq.queue = r :: rest)
    (ht : r.exitTaken = false) : applyExit r.serial s =
      endActive { s with bq := { s.bq with queue := { r with exitTaken := true } :: rest } } := by
  simp only [applyExit, hq, ht, if_true, Bool.false_eq_true, if_false, State.modBq, takeHeadExit]

/-- R117: EXIT or ABANDON of a body that is ending has no further effect. -/
theorem endActive_again (h : s.ssq.ending = true) : endActive s = s := if_pos h

/-- Settles O44: what an EXIT finds in the queue decides, and of the head's what the active body is at. -/
theorem exitFrameTakesABodyOut : Obligations.ExitFrameTakesABodyOut := by
  intro s arb serial hl hp u
  have applied : ∀ {t : State}, applyExit serial.toNat u = t → exec (.exitFrame arb serial) s = .next t := by
    rintro _ rfl
    rw [exec_exitFrame, receiveFrame_peer hl hp]; rfl
  refine ⟨fun h => applied (applyExit_unknown (s := u) h),
    fun r rest hq hr ht => applied (hr ▸ applyExit_again (s := u) hq ht),
    fun a x b ha hq hx hn => applied (applyExit_behind (s := u) ha hq hx hn), fun r rest hq hr ht => ?head⟩
  intro taken
  have ended : ∀ {t : State}, endActive taken = t → exec (.exitFrame arb serial) s = .next t := by
    rintro _ rfl
    exact applied (hr ▸ applyExit_head (s := u) hq ht)
  refine ⟨fun he => ended (endActive_again (s := taken) he), fun he => ⟨fun b hs hrest hb hh => ?_,
    fun b h e hx hs => ⟨_, ended rfl, ?_⟩, fun h hh => ⟨fun hs => ended (endActive_kept (s := taken) hh he hs),
      fun hs hc => ended (endActive_current (s := taken) hh he hs hc)⟩⟩⟩
  · subst hrest
    obtain ⟨q, hidle, hend⟩ := endActive_awaiting (s := taken) hs rfl hb hh he
    exact ⟨q, hidle, ended hend⟩
  · obtain ⟨h1, h2, h3, h4, h5, h6, h7, h8⟩ := hx
    obtain ⟨-, rfl⟩ := List.cons.inj (hq.symm.trans h8)
    exact endActive_exited (s := taken) (r := { r with exitTaken := true }) ⟨h1, h2, h3, h4, h5, h6, h7, rfl⟩ hs

/-! #### ABANDON-BODY -/

/-- R165, R167: ABANDON-BODY out of IDLE is taken. -/
theorem exec_abandonBody_taken (hl : s.linkTakes) (hs : s.ssq.state ≠ .idle) :
    exec .abandonBody s = .next (endActive (s.afterDataIn 8)) := by
  rw [exec_abandonBody, writeB_takes _ hl.1]
  exact congrArg _ (if_neg fun h => h.elim hl.2 hs)

/-- Settles O21: what the active body is at decides. -/
theorem abandonEndsTheActiveBody : Obligations.AbandonEndsTheActiveBody := by
  intro s hl he
  have ended : s.ssq.state ≠ .idle → ∀ {t : State}, endActive (s.afterDataIn 8) = t →
      exec .abandonBody s = .next t := by
    rintro hs _ rfl
    exact exec_abandonBody_taken hl hs
  refine ⟨fun r b hs hq hb hh => ?_, fun r b h e hx hs => ⟨_, ended ?_ rfl, ?_⟩, fun h hh => ⟨fun hs => ended ?_ ?_,
    fun hs hc => ended (by simp [hs]) (endActive_current (s := s.afterDataIn 8) hh he hs hc)⟩⟩
  · obtain ⟨q, hidle, hend⟩ := endActive_awaiting (s := s.afterDataIn 8) hs hq hb hh he
    exact ⟨q, hidle, ended (by simp [hs]) hend⟩
  · rcases hs with hs | ⟨hs, -⟩ <;> simp [hs]
  · exact endActive_exited (s := s.afterDataIn 8) hx hs
  · rcases hs with hs | ⟨hs, -⟩ <;> simp [hs]
  · exact endActive_kept (s := s.afterDataIn 8) hh he hs

end Sys2Proof.Machine

/-! ### Zone hold from a peer and the opening of the gun (R45, R65, R68, R91, R100 to R103, R114 to R116) -/

namespace Sys2Proof.Machine

variable {s : State}

theorem exec_haltFrame (arb : ArbField) (seconds : BitVec 8) (s : State) :
    exec (.haltFrame arb seconds) s = .next (receiveFrame { arb := arb, body := .halt seconds } s) := rfl
theorem exec_gunOpen (s : State) : exec .gunOpen s = .next (writeA 2 0 s) := rfl
theorem exec_holdEnd (s : State) : exec .holdEnd s = .next (onTimer s.holdLeft endHold s) := rfl

/-! #### Release orders with no CLAIM chosen, and in SILENT -/

/-- R14, R45: with no CLAIM chosen a release order keeps the pending claim record (log 38). -/
theorem releaseOrder_unchosen (hg : s.sru.claim = .granted) (hc : s.zbc.chosen ≠ some .claim) :
    (releaseOrder s).sru = { s.sru with claim := .releasing } := by
  simp only [releaseOrder, hg, if_true, queueRelease]
  split
  · rfl
  · split
    · rw [callArbitration_unclaimed]
      · rfl
      · nofun
      · exact hc
    · rfl

/-- R45: in SILENT no RELEASE is queued. -/
theorem queueRelease_silent (hn : s.zbc.node = .silent) : queueRelease s = s := by
  unfold queueRelease; split
  · rfl
  · exact if_neg (by simp [hn])

/-- R43, R45, R91: in SILENT a visit ends with its GRANTED claim RELEASING and no RELEASE queued. -/
theorem endVisit_silent (hg : s.sru.claim = .granted) (hn : s.zbc.node = .silent) :
    endVisit s = { s with sru := s.sru.visitOver .releasing } := by
  have hg' : (s.modSru fun u => { u with request := none }).sru.claim = .granted := hg
  simp only [endVisit, cancelRequest, hg, releaseOrder, hg', if_true]
  rw [queueRelease_silent]
  · rfl
  · exact hn

/-- R91, R102, R110, R147: the spot in hand of MAIN is closed and another follows: what its visit leaves of claim and
slots, its SPOT-DONE, and a FAULT of the stage link ended. -/
theorem closeSpot_ended {h : SpotInHand} {e next : PlanEntry} {b : ActiveBody} (h1 : s.ssq.inHand = some h)
    (h2 : s.ssq.plan[h.planIdx]? = some e) (h3 : s.ssq.active = some b) (h4 : s.ssq.pass = .main)
    (h5 : s.ssq.ending = false) (h6 : s.ssq.plan[s.ssq.cursor + 1]? = some next)
    (h7 : (scheduleOf s.pst next.sched).mark = .usable) :
    ∃ z u, s.visitEndedIn { s with zbc := z, sru := u } ∧ closeSpot s =
      { generate (.spotDone b.serial b.zoneSeq e.spotId .main e.outcome e.cause (h.result.getD noCurrentResult)
          h.earlyOpen) s with
        zbc := z, sru := u, sgl := endFault s.sgl,
        ssq := { s.ssq with
          state := .awaitGun, inHand := none, cursor := s.ssq.cursor + 1, moveTimer := 0, moveOpen := true,
          late := false } } := by
  rw [closeSpot_main h1 h2 h3 h4 h5 h6 h7]
  generalize hw : generate _ s = w
  have ended := endVisit_ended (s := w)
  obtain ⟨z, u, hv⟩ := endVisit_changes (s := w)
  rw [hv] at ended ⊢
  subst hw
  exact ⟨z, u, visitEnded_congr ended rfl rfl rfl rfl rfl rfl, rfl⟩

/-- R90, R91, R97, R100, R110, R147: the spot at the cursor of MAIN is closed MISSED without current, and another
follows: its visit ends and its SPOT-DONE is told. A FAULT of the stage link ends with it. -/
theorem closeResolved_ended {h : SpotInHand} {e next : PlanEntry} {b : ActiveBody} {g : Sgl}
    (hm : ({ s with sgl := g } : State).midPlan h e next b) (c : Cause) :
    ∃ z u, s.visitEndedIn { s with zbc := z, sru := u } ∧ closeResolved .missed c s = { s with
      zbc := z, sru := u, sgl := endFault s.sgl, rlk := s.rlkMissed b e c h.earlyOpen, ssq := s.ssqMissed c } := by
  obtain ⟨h1, h2, h3, h4, h5, h6, h7, h8, h9, -⟩ := hm
  have h7 : s.ssq.plan[s.ssq.cursor]? = some e := h7
  have hp : (resolveEntry s.ssq.cursor .missed c s.ssq).plan[h.planIdx]? =
      some { e with outcome := .missed, cause := c } := by
    rw [h2]; simp [resolveEntry, leaveDeferred, setOutcome, h7]
  have hn : (resolveEntry s.ssq.cursor .missed c s.ssq).plan[s.ssq.cursor + 1]? = some next := by
    simpa [resolveEntry, leaveDeferred, setOutcome] using h8
  have resolved : closeResolved .missed c s = closeSpot (s.modSsq (resolveEntry s.ssq.cursor .missed c)) := by
    simp only [closeResolved, show s.ssq.inHand = some h from h1, h2]
  obtain ⟨z, u, ended, closed⟩ :=
    closeSpot_ended (s := s.modSsq (resolveEntry s.ssq.cursor .missed c)) h1 hp h4 h5 h6 hn h9
  rw [h3] at closed
  exact ⟨z, u, ended, resolved.trans closed⟩

/-! #### HALT -/

theorem haltTimer_seconds (seconds : BitVec 8) :
    haltTimer seconds.toNat = if seconds = 0 then none else some (seconds.toNat * 1000000) := by
  have h0 : seconds.toNat = 0 ↔ seconds = 0 := by rw [← BitVec.toNat_inj]; rfl
  simp only [haltTimer, h0, Nat.mul_assoc]; rfl

/-- R65: a HALT that finds the flag clear is told, and then acts on the sequencer. -/
theorem applyHalt_clear (h : s.bq.hold = false) (seconds : Nat) : applyHalt seconds s =
    holdSet (raise .zoneHoldChange 1 0 0 0
      { s with bq := { s.bq with hold := true, holdTimer := haltTimer seconds } }) := by
  simp only [applyHalt, h, Bool.false_eq_true, if_false]; rfl

/-- R65: a HALT under a hold that stands restarts its timer alone. -/
theorem applyHalt_held (h : s.bq.hold = true) (seconds : Nat) : applyHalt seconds s =
    { s with bq := { s.bq with hold := true, holdTimer := haltTimer seconds } } := by
  simp only [applyHalt, h, if_true]; rfl

/-- R114 to R116: a hold finds no spot that waits for its current with a grant, and none in current. -/
theorem holdSet_nothing (h : s.ssq.state = .idle ∨ s.ssq.state = .awaitGun ∨ s.ssq.state = .hold ∨
    (s.ssq.state = .squeeze ∧ s.sru.claim ≠ .granted) ∨ (s.ssq.state = .firing ∧ s.cpg.phase = .aborting)) :
    holdSet s = s := by
  rcases h with h | h | h | ⟨h, hc⟩ | ⟨h, hp⟩
  · simp only [holdSet, h]
  · simp only [holdSet, h]
  · simp only [holdSet, h]
  · simp only [holdSet, h, hc, if_false]
  · have hn : s.cpg.phase ≠ .prestart := by simp [hp]
    simp only [holdSet, h, hn, if_false]
    exact takeAbort_outside (by simp [State.inCurrent, hp]) _ _

/-- R116: a hold aborts a current that runs. -/
theorem holdSet_inCurrent (h : s.ssq.state = .firing) (hc : s.inCurrent) : holdSet s = { s with
    cpg := s.cpgAborting .halted s.settings.abortPath, wmn := s.wmnCut } := by
  have hn : s.cpg.phase ≠ .prestart := by rcases hc with h | h | h | h <;> simp [h]
  simp only [holdSet, h, hn, if_false]
  exact takeAbort_inCurrent hc _ _

/-- R114: out of SILENT a granted spot in SQUEEZE stays there, its claim released. -/
theorem holdSet_squeeze (h : s.ssq.state = .squeeze) (hg : s.sru.claim = .granted) (hn : s.zbc.node ≠ .silent) :
    holdSet s = releaseOrder s := by
  simp only [holdSet, h, hg, hn, if_true, if_false]

/-- R115: out of SILENT a spot in PRESTART comes back into SQUEEZE, its claim released. -/
theorem holdSet_prestart (h : s.ssq.state = .firing) (hp : s.cpg.phase = .prestart) (hn : s.zbc.node ≠ .silent) :
    holdSet s = (releaseOrder (standDown s)).modSsq fun q => { q with state := .squeeze } := by
  simp only [holdSet, h, hp, hn, if_true, if_false]

/-- R114, R115: in SILENT a granted spot in SQUEEZE or PRESTART of MAIN is MISSED HALTED, and the next is awaited. -/
theorem holdSet_silent {h : SpotInHand} {e next : PlanEntry} {b : ActiveBody} (hg : s.sru.claim = .granted)
    (hn : s.zbc.node = .silent) (hm : s.midPlan h e next b)
    (hp : s.ssq.state = .squeeze ∨ (s.ssq.state = .firing ∧ s.cpg.phase = .prestart)) :
    holdSet s = { (if s.ssq.state = .squeeze then s else standDown s) with
      rlk := s.rlkMissed b e .halted h.earlyOpen, sru := s.sru.visitOver .releasing, ssq := s.ssqMissed .halted } := by
  rcases hp with hs | ⟨hs, hp⟩
  · simp only [holdSet, hs, hg, hn, if_true]
    rw [closeResolved_midPlan hm, endVisit_silent]
    · exact hg
    · exact hn
  · simp only [holdSet, hs, hp, hn, if_true, endPrestart, reduceCtorEq, if_false]
    rw [closeResolved_midPlan (midPlan_standDown hm), endVisit_silent]
    · rfl
    · exact hg
    · exact hn

/-- Settles O40: the flag and its timer are set, and on a change the sequencer acts by its state. -/
theorem haltFrameHoldsTheZone : Obligations.HaltFrameHoldsTheZone := by
  intro s arb seconds hl hp bq held told
  obtain ⟨-, -, hchosen⟩ := listening_iff.1 hl
  have heard : exec (.haltFrame arb seconds) s = .next (applyHalt seconds.toNat (s.afterHearing .receiptSlot)) := by
    rw [exec_haltFrame, receiveFrame_peer hl hp]; rfl
  have timed : { s.bq with hold := true, holdTimer := haltTimer seconds.toNat } = bq := by rw [haltTimer_seconds]
  have changed : s.bq.hold = false → ∀ {t : State}, holdSet told = t → exec (.haltFrame arb seconds) s = .next t := by
    rintro hh _ rfl
    rw [heard, applyHalt_clear (s := s.afterHearing .receiptSlot) hh]
    exact congrArg (fun b => Host.Outcome.next (holdSet (raise .zoneHoldChange 1 0 0 0
      { s.afterHearing .receiptSlot with bq := b }))) timed
  refine ⟨fun hh => ?standing, fun hh h => changed hh (holdSet_nothing (s := told) h),
    fun hh hs hc => changed hh (holdSet_inCurrent (s := told) hs hc), fun r hh hg hr hn => ?granted,
    fun h e next b hh hg hn hm hs => ?silent⟩
  case standing =>
    rw [heard, applyHalt_held (s := s.afterHearing .receiptSlot) hh]
    exact congrArg (fun b => Host.Outcome.next { s.afterHearing .receiptSlot with bq := b }) timed
  case granted =>
    have hns : s.zbc.node ≠ .silent := by rcases hn with hn | hn <;> simp [hn]
    have hnc : s.zbc.chosen ≠ some .claim := by simp [hchosen]
    refine ⟨fun hs => ⟨_, changed hh (holdSet_squeeze (s := told) hs hg hns),
      (releaseOrder_released (s := told) hg hr).1, releaseOrder_unchosen (s := told) hg hnc, ?_⟩,
      fun hs hp ha => ⟨_, changed hh (holdSet_prestart (s := told) hs hp hns),
        (releaseOrder_released (s := standDown told) hg hr).1, releaseOrder_unchosen (s := standDown told) hg hnc, ?_⟩⟩
    · obtain ⟨z, u, e⟩ := releaseOrder_changes (s := told)
      rw [e]; exact ⟨rfl, rfl, rfl, rfl, rfl⟩
    · have hidle : (leaveActive s.sgl).link = .idle := leaveActive_idle (by simp [ha])
      obtain ⟨z, u, e⟩ := releaseOrder_changes (s := standDown told)
      rw [e]; exact ⟨rfl, rfl, rfl, rfl, rfl, rfl, hidle, rfl⟩
  case silent =>
    refine ⟨_, changed hh (holdSet_silent (s := told) hg hn hm hs), rfl, ?_⟩
    rcases hs with hs | ⟨hs, -⟩
    · have ht : told.ssq.state = .squeeze := hs
      rw [if_pos ht]
      exact ⟨rfl, rfl, rfl, rfl, rfl, fun _ => rfl, fun hf => by simp [hs] at hf⟩
    · have ht : told.ssq.state ≠ .squeeze := by rw [show told.ssq.state = _ from hs]; nofun
      rw [if_neg ht]
      exact ⟨rfl, rfl, rfl, rfl, rfl, fun hf => by simp [hs] at hf,
        fun _ => ⟨rfl, rfl, rfl, leaveActive_idle (midPlan_link hm)⟩⟩

/-! #### The closing of a spot does not read its hold timer -/

/-- R14: with a RELEASE waiting the choice depends on the bus alone. -/
theorem chooseSlot_filled_ssq (h : s.zbc.releaseSlot.isSome) (q : Ssq) :
    chooseSlot { s with ssq := q } = { chooseSlot s with ssq := q } := by
  obtain ⟨r, hr⟩ := Option.isSome_iff_exists.1 h
  have hr' : ({ s with ssq := q } : State).zbc.releaseSlot = some r := hr
  cases ha : s.zbc.announceSlot with
  | none => rw [chooseSlot_release hr ha, chooseSlot_release hr' ha]; rfl
  | some a => rw [chooseSlot_both hr ha, chooseSlot_both hr' ha]; rfl

theorem voidChoice_ssq (q : Ssq) : voidChoice { s with ssq := q } = { voidChoice s with ssq := q } := by
  cases hc : s.zbc.chosen with
  | none => rw [voidChoice_unchosen hc, voidChoice_unchosen (s := { s with ssq := q }) hc]
  | some slot => cases slot <;> simp only [voidChoice, hc] <;> rfl

theorem callArbitration_filled_ssq (h : s.zbc.releaseSlot.isSome) (q : Ssq) :
    callArbitration { s with ssq := q } = { callArbitration s with ssq := q } := by
  cases ho : s.arbitrationOpen with
  | false => rw [callArbitration_closed ho, callArbitration_closed (s := { s with ssq := q }) ho]
  | true =>
    cases hc : s.zbc.chosen with
    | none =>
      rw [callArbitration_unchosen ho hc, callArbitration_unchosen (s := { s with ssq := q }) ho hc,
        chooseSlot_filled_ssq h]
    | some slot =>
      obtain ⟨-, hkept, -⟩ := voidChoice_keeps (s := s)
      have hv : (voidChoice s).zbc.releaseSlot.isSome := by rw [hkept]; exact h
      rw [callArbitration_chosen ho hc, callArbitration_chosen (s := { s with ssq := q }) ho hc, voidChoice_ssq,
        chooseSlot_filled_ssq hv]
      rfl

theorem queueRelease_noRow (h : s.ownRow = none) : queueRelease s = s := by simp only [queueRelease, h]

/-- R45: the RELEASE of an occupied own row is queued in JOINING and RUN. -/
theorem queueRelease_row {r : Row} (h : s.ownRow = some r) : queueRelease s =
    if s.zbc.node = .joining ∨ s.zbc.node = .run then callArbitration (s.modZbc fun z =>
      { z with releaseSlot := some (s.releaseFrameOf r.spotId), releaseCancelled := false }) else s := by
  simp only [queueRelease, h]

theorem queueRelease_ssq (q : Ssq) : queueRelease { s with ssq := q } = { queueRelease s with ssq := q } := by
  cases hr : s.ownRow with
  | none => rw [queueRelease_noRow hr, queueRelease_noRow (s := { s with ssq := q }) hr]
  | some r =>
    rw [queueRelease_row hr, queueRelease_row (s := { s with ssq := q }) hr]
    by_cases hn : s.zbc.node = .joining ∨ s.zbc.node = .run
    · rw [if_pos hn, if_pos hn]
      exact callArbitration_filled_ssq (s := s.modZbc fun z =>
        { z with releaseSlot := some (s.releaseFrameOf r.spotId), releaseCancelled := false }) rfl q
    · rw [if_neg hn, if_neg hn]

theorem releaseOrder_ssq (q : Ssq) : releaseOrder { s with ssq := q } = { releaseOrder s with ssq := q } := by
  by_cases hg : s.sru.claim = .granted
  · simp only [releaseOrder, hg, if_true]
    exact queueRelease_ssq (s := s.modSru fun u => { u with claim := .releasing }) q
  · simp only [releaseOrder, hg, if_false]

/-- R43 to R45: the end of a visit reads nothing of the sequencer. -/
theorem endVisit_ssq (q : Ssq) : endVisit { s with ssq := q } = { endVisit s with ssq := q } := by
  have cancelled : cancelRequest { s with ssq := q } = { cancelRequest s with ssq := q } := by
    cases hc : s.sru.claim <;> simp only [cancelRequest, hc]
    case none => rfl
    case waiting =>
      by_cases hz : s.zbc.chosen = some .claim
      · simp only [voidClaimChoice, hz, if_true, voidChoice_ssq]; rfl
      · simp only [voidClaimChoice, hz, if_false]; rfl
    case offered => rfl
    case granted => exact releaseOrder_ssq (s := s.modSru fun u => { u with request := none }) q
    case releasing => rfl
  simp only [endVisit, cancelled]; rfl

/-- R91: what the hold timer of the spot stands at does not matter to its closing. -/
theorem closeSpot_holdLeft {h : SpotInHand} (hh : s.ssq.inHand = some h) (n : Nat) :
    closeSpot { s with ssq := { s.ssq with inHand := some { h with holdLeft := n } } } = closeSpot s := by
  obtain ⟨k, hk⟩ := reportSpot_changes (s := s) h.planIdx (h.result.getD noCurrentResult) h.earlyOpen
  have told : reportSpot h.planIdx (h.result.getD noCurrentResult) h.earlyOpen
      { s with ssq := { s.ssq with inHand := some { h with holdLeft := n } } } =
      { s with rlk := k, ssq := { s.ssq with inHand := some { h with holdLeft := n } } } := by
    have e := congrArg State.rlk hk
    simp only [reportSpot] at e ⊢
    rw [← e]
    split <;> rfl
  obtain ⟨z, u, hv⟩ := endVisit_changes (s := { s with rlk := k })
  have ended := endVisit_ssq (s := { s with rlk := k }) { s.ssq with inHand := some { h with holdLeft := n } }
  rw [hv] at ended
  simp only [closeSpot, hh, told, hk, ended, hv]
  rfl

/-! #### GUN-OPEN -/

/-- R164: GUN-OPEN is the second motion kind. -/
theorem exec_gunOpen_taken (hl : s.linkTakes) : exec .gunOpen s = .next (gunOpened (s.afterDataIn 4)) := by
  rw [exec_gunOpen, writeA_takes _ _ hl]; rfl

theorem gunOpened_before (h : s.ssq.state = .idle ∨ s.ssq.state = .awaitGun) : gunOpened s = s := by
  rcases h with h | h <;> simp only [gunOpened, h]

/-- R103: the node with the early-open mark of its spot in hand set. -/
def State.withEarlyOpen (s : State) (h : SpotInHand) : State :=
  { s with ssq := { s.ssq with inHand := some { h with earlyOpen := true } } }

theorem markEarlyOpen_inHand {h : SpotInHand} (hh : s.ssq.inHand = some h) :
    s.modSsq markEarlyOpen = s.withEarlyOpen h := by
  simp only [State.modSsq, markEarlyOpen, hh]; rfl

/-- R103: once the spot is in FIRING or HOLD, GUN-OPEN marks it, and then acts by the phase. -/
theorem gunOpened_firing {h : SpotInHand} (hh : s.ssq.inHand = some h) (hs : s.ssq.state = .firing) :
    gunOpened s = if s.cpg.phase = .prestart then endPrestart .gunOpened (s.withEarlyOpen h)
      else orderAbort .gunOpened (s.withEarlyOpen h) := by
  simp only [gunOpened, hs, markEarlyOpen_inHand hh]

theorem gunOpened_hold {h : SpotInHand} (hh : s.ssq.inHand = some h) (hs : s.ssq.state = .hold) :
    gunOpened s = closeSpot (s.withEarlyOpen h) := by
  simp only [gunOpened, hs, markEarlyOpen_inHand hh]

/-- R103: in current GUN-OPEN is an abort order. -/
theorem gunOpened_inCurrent {h : SpotInHand} (hh : s.ssq.inHand = some h) (hs : s.ssq.state = .firing)
    (hc : s.inCurrent) : gunOpened s = { s.withEarlyOpen h with
      cpg := s.cpgAborting .gunOpened s.settings.abortPath, wmn := s.wmnCut } := by
  have hn : s.cpg.phase ≠ .prestart := by rcases hc with h | h | h | h <;> simp [h]
  rw [gunOpened_firing hh hs, if_neg hn]
  exact takeAbort_inCurrent (s := s.withEarlyOpen h) hc _ _

theorem gunOpened_aborting {h : SpotInHand} (hh : s.ssq.inHand = some h) (hs : s.ssq.state = .firing)
    (hp : s.cpg.phase = .aborting) : gunOpened s = s.withEarlyOpen h := by
  rw [gunOpened_firing hh hs, if_neg (by simp [hp])]
  exact takeAbort_outside (s := s.withEarlyOpen h) (by simp [State.withEarlyOpen, State.inCurrent, hp]) _ _

/-- R100, R103: in PRESTART the spot is MISSED GUN_OPENED with the mark. -/
theorem gunOpened_prestart {h : SpotInHand} {e next : PlanEntry} {b : ActiveBody} (hs : s.ssq.state = .firing)
    (hp : s.cpg.phase = .prestart) (hm : s.midPlan h e next b) :
    ∃ z u, s.visitEndedIn { s with zbc := z, sru := u } ∧ gunOpened s = { standDown s with
      zbc := z, sru := u, ssq := s.ssqMissed .gunOpened, rlk := s.rlkMissed b e .gunOpened true } := by
  have hl : (leaveActive s.sgl).link ≠ .fault := by rw [leaveActive_idle (midPlan_link hm)]; nofun
  obtain ⟨h1, h2, h3, h4, h5, h6, h7, h8, h9, h10⟩ := hm
  obtain ⟨z, u, ended, e⟩ := closeResolved_ended (s := standDown (s.withEarlyOpen h)) (g := s.sgl)
    (h := { h with earlyOpen := true }) ⟨rfl, h2, h3, h4, h5, h6, h7, h8, h9, h10⟩ .gunOpened
  refine ⟨z, u, visitEnded_congr ended rfl rfl rfl rfl rfl rfl, ?_⟩
  have hf : endFault (standDown (s.withEarlyOpen h)).sgl = leaveActive s.sgl := endFault_of_ne hl
  rw [gunOpened_firing h1 hs, if_pos hp, endPrestart, e, hf]
  rfl

/-- Settles O26: GUN-OPEN acts by the state of the sequencer, and in FIRING by the phase. -/
theorem gunOpenBeforeAndInCurrent : Obligations.GunOpenBeforeAndInCurrent := by
  intro s hl
  have opened : ∀ {t : State}, gunOpened (s.afterDataIn 4) = t → exec .gunOpen s = .next t := by
    rintro _ rfl
    exact exec_gunOpen_taken hl
  refine ⟨fun h => opened (gunOpened_before (s := s.afterDataIn 4) h), fun hs => ?squeeze,
    fun h e next b hs hp hm => ?prestart, fun h hh => ?_⟩
  case squeeze =>
    have e : gunOpened (s.afterDataIn 4) = (endVisit (s.afterDataIn 4)).modSsq fun q =>
        { q with state := .awaitGun, inHand := none } := by
      simp only [gunOpened, show (s.afterDataIn 4).ssq.state = _ from hs]
    refine ⟨_, opened e, ?_⟩
    have ended := endVisit_ended (s := s.afterDataIn 4)
    obtain ⟨z, u, hv⟩ := endVisit_changes (s := s.afterDataIn 4)
    rw [hv] at ended ⊢
    exact ⟨ended, rfl⟩
  case prestart =>
    obtain ⟨z, u, ended, e⟩ := gunOpened_prestart (s := s.afterDataIn 4) hs hp hm
    refine ⟨_, opened e, ended, ⟨rfl, rfl, rfl, rfl⟩, ?_⟩
    show _ = ({ sgl := { s.sgl with link := .idle, updateIn := (leaveActive s.sgl).updateIn }, .. } : State)
    rw [← leaveActive_stands (midPlan_link hm)]
    rfl
  intro marked
  refine ⟨fun hs hc => opened (gunOpened_inCurrent (s := s.afterDataIn 4) hh hs hc),
    fun hs hp => opened (gunOpened_aborting (s := s.afterDataIn 4) hh hs hp), fun hs hf => ?hold⟩
  case hold =>
    have closed : gunOpened (s.afterDataIn 4) = closeSpot marked := gunOpened_hold (s := s.afterDataIn 4) hh hs
    refine ⟨?_, fun e next b res hres he hb hp hend hn hu => ?_⟩
    · generalize hw : ({ marked with ssq := _ } : State) = w
      have hleft : w.holdLeft = some 0 := by
        rw [← hw]; simp only [State.holdLeft, hs, if_true]; rfl
      have hcond : ¬(w.sgl.link = .fault ∧ w.sgl.updateIn = 0) := by
        rw [← hw]; rintro ⟨ha, hb⟩; exact hf.elim (· ha) (· hb)
      rw [opened closed, exec_holdEnd, hleft]
      show _ = Host.Outcome.next (endHold w)
      rw [endHold, if_neg hcond, ← hw, ← closeSpot_holdLeft (s := marked) rfl 0]
    · obtain ⟨z, u, ended, main⟩ := closeSpot_ended (s := marked) rfl he hb hp hend hn hu
      have hr : ({ h with earlyOpen := true } : SpotInHand).result = some res := hres
      rw [hr] at main
      refine ⟨_, opened (closed.trans main), ended, rfl, fun hn => endFault_of_ne hn, fun hf => ?_⟩
      show endFault s.sgl = { s.sgl with link := .idle, updateIn := (endFault s.sgl).updateIn }
      rw [endFault, if_pos hf]

end Sys2Proof.Machine

/-! ### Timers of the claim, the hold and the move (R33, R43, R44, R49, R67, R68, R97, R105, R112, R114) -/

namespace Sys2Proof.Machine

variable {s : State}

theorem exec_claimWaitExpiry (s : State) :
    exec .claimWaitExpiry s = .next (onTimer s.waitLeft claimWaitExpired s) := rfl
theorem exec_holdTimerExpiry (s : State) :
    exec .holdTimerExpiry s = .next (onTimer s.holdTimerLeft (clearHold 3) s) := rfl
theorem exec_robotLate (s : State) : exec .robotLate s = .next (onTimer s.moveLeft raiseLate s) := rfl

/-! #### The claim-wait timer at its limit -/

/-- R43: the command of a claim-wait timer that counts and stands at its limit. -/
theorem exec_claimWaitExpiry_due (hc : s.sru.claim = .waiting ∨ s.sru.claim = .offered) (hh : s.bq.hold = false)
    (he : s.sru.expiryHeld = false) (ht : s.sru.waitTimer = some (s.settings.claimWaitLimit * 1000)) :
    exec .claimWaitExpiry s = .next (claimWaitExpired s) := by
  have h0 : s.waitLimitUs - s.settings.claimWaitLimit * 1000 = 0 := Nat.sub_self _
  have hl : s.waitLeft = some 0 := by
    rw [State.waitLeft, if_pos ⟨hc, hh, he⟩, ht, Option.map_some, h0]
  rw [exec_claimWaitExpiry, hl]; rfl

theorem claimWaitExpired_offered (hc : s.sru.claim = .offered) :
    claimWaitExpired s = { s with sru := { s.sru with expiryHeld := true } } := if_pos hc

/-- R35, R43: the node once a WAITING claim has timed out, no CLAIM of it chosen. -/
def State.withClaimDropped (s : State) : State :=
  { s with sru := { s.sru with claim := .none, request := none, record := none, expiryHeld := false } }

/-- R43, R97: the expiry in WAITING is told to the sequencer. -/
theorem claimWaitExpired_waiting (hc : s.sru.claim = .waiting) (hn : s.zbc.chosen = none) :
    claimWaitExpired s = claimTimedOut s.withClaimDropped := by
  have dropped : dropClaim s = s.withClaimDropped := by
    rw [dropClaim, voidClaimChoice, if_neg (by simp [hn])]; rfl
  rw [claimWaitExpired, if_neg (by simp [hc]), timeOutClaim, dropped]

theorem claimTimedOut_main (hs : s.ssq.state = .squeeze) (hp : s.ssq.pass = .main) :
    claimTimedOut s = deferSpot s := by
  simp only [claimTimedOut, hs, if_true, hp]

theorem claimTimedOut_revisit (hs : s.ssq.state = .squeeze) (hp : s.ssq.pass = .revisit) :
    claimTimedOut s = closeResolved .missed .claimTimeout s := by
  simp only [claimTimedOut, hs, if_true, hp]

/-- R105: the sequencer with the spot at the cursor DEFERRED at the tail of the deferred list. -/
def Ssq.withDeferred (q : Ssq) : Ssq :=
  { q with
    plan := q.plan.modify q.cursor fun e => { e with outcome := .deferred, cause := .claimTimeout },
    deferred := q.deferred ++ [q.cursor] }

/-- R105: with fewer than 8 deferred spots the spot at the cursor of MAIN is deferred and closed. -/
theorem deferSpot_deferred {h : SpotInHand} (hh : s.ssq.inHand = some h) (hi : h.planIdx = s.ssq.cursor)
    (hd : s.ssq.deferred.length < 8) : deferSpot s = closeSpot (s.modSsq Ssq.withDeferred) := by
  have hd' : s.ssq.deferred.length < Config.deferredMax := hd
  simp only [deferSpot, hh, hd', if_true, hi]; rfl

/-- R105: with 8 deferred spots the spot is MISSED DEFER_FULL. -/
theorem deferSpot_full {h : SpotInHand} (hh : s.ssq.inHand = some h) (hd : 8 ≤ s.ssq.deferred.length) :
    deferSpot s = closeResolved .missed .deferFull s := by
  have hd' : ¬s.ssq.deferred.length < Config.deferredMax := Nat.not_lt.2 hd
  simp only [deferSpot, hh, hd', if_false]

/-- R91, R110: a body of MAIN that goes on moves on to the next spot, with the move timer opened. -/
theorem afterClose_main (hp : s.ssq.pass = .main) (he : s.ssq.ending = false) :
    afterClose s = stepPlan (s.modSsq fun q => openMove { q with cursor := q.cursor + 1 }) := by
  simp only [afterClose, he, Bool.false_eq_true, if_false, hp]

/-- R91, R106, R110: a spot of MAIN closed without a claim while a deferred spot waits: the sequencer goes on to
AWAIT_GUN, whatever follows in the plan. -/
theorem closeSpot_deferred {h : SpotInHand} {b : ActiveBody} (hh : s.ssq.inHand = some h) (hc : s.sru.claim = .none)
    (hb : s.ssq.active = some b) (hp : s.ssq.pass = .main) (he : s.ssq.ending = false) (hd : s.ssq.deferred ≠ []) :
    ∃ k q, closeSpot s = { s with
      rlk := k, sgl := endFault s.sgl, ssq := q, sru := s.sru.visitOver .none } ∧
      q.state = .awaitGun ∧ q.inHand = none ∧ q.deferred = s.ssq.deferred ∧ q.active = some b ∧
      q.plan[s.ssq.cursor]? = s.ssq.plan[s.ssq.cursor]? := by
  obtain ⟨k, e⟩ := closeSpot_noClaim hh hc
  generalize hv : (State.mk _ _ _ _ _ _ _ _ _ _ _ _ _ _ _) = v at e
  rw [e, afterClose_main (by rw [← hv]; exact hp) (by rw [← hv]; exact he)]
  generalize hw : v.modSsq _ = w
  have hq : w.ssq = openMove { s.ssq with inHand := none, cursor := s.ssq.cursor + 1 } := by rw [← hw, ← hv]; rfl
  obtain ⟨a1, a2, a3, a4, a5, a6⟩ := stepPlan_deferred (s := w) (b := b) (by rw [hq]; exact hd) (by rw [hq]; exact hp)
    (by rw [hq]; exact hb)
  obtain ⟨bq, q, k', hs⟩ := stepPlan_changes (s := w)
  rw [hs] at a1 a2 a3 a4 a5 a6 ⊢
  rw [hq] at a2 a3 a4 a6
  have a5 : bq = w.bq := a5
  subst a5 hw hv
  exact ⟨k', q, rfl, a1, a2, a3, a4.trans hb, a6 _ (Nat.lt_succ_self _)⟩

/-- Settles O47: the expiry waits for the outcome of an offer, and else the spot is deferred or missed by its pass and
the length of the deferred list. -/
theorem claimWaitExpiryDefersTheSpot : Obligations.ClaimWaitExpiryDefersTheSpot := by
  intro s hh he ht
  have expired : s.sru.claim = .waiting ∨ s.sru.claim = .offered → ∀ {t : State}, claimWaitExpired s = t →
      exec .claimWaitExpiry s = .next t := by
    rintro hc _ rfl
    exact exec_claimWaitExpiry_due hc hh he ht
  refine ⟨fun hc => expired (.inr hc) (claimWaitExpired_offered hc),
    fun h e b hc hn hs hp hi hidx hpl hb hd hend => ?deferred, fun h e next b hc hn hs hm hd => ?full,
    fun h e b i rest hc hn hs hp hi hr hpl hb hend hl hcur hdef hnd => ?revisit⟩
  case deferred =>
    have e0 : claimWaitExpired s = closeSpot (s.withClaimDropped.modSsq Ssq.withDeferred) := by
      rw [claimWaitExpired_waiting hc hn, claimTimedOut_main (s := s.withClaimDropped) hs hp]
      exact deferSpot_deferred (s := s.withClaimDropped) hi hidx hd
    have hentry : (s.withClaimDropped.modSsq Ssq.withDeferred).ssq.plan[s.ssq.cursor]? =
        some { e with outcome := .deferred, cause := .claimTimeout } := by
      simp [State.withClaimDropped, Ssq.withDeferred, hpl]
    obtain ⟨k, q, closed, h1, h2, h3, h4, h5⟩ := closeSpot_deferred (s := s.withClaimDropped.modSsq Ssq.withDeferred)
      (b := b) hi rfl hb hp hend (by simp [Ssq.withDeferred])
    refine ⟨_, expired (.inl hc) (e0.trans closed), rfl, rfl, rfl, h1, h2, h3, h5.trans hentry, rfl, rfl, rfl, rfl, h4,
      fun next hm => ?_⟩
    obtain ⟨-, -, hres, -, -, -, -, hnext, hu, -⟩ := hm
    have hnext' : (s.withClaimDropped.modSsq Ssq.withDeferred).ssq.plan[s.ssq.cursor + 1]? = some next := by
      simp [State.withClaimDropped, Ssq.withDeferred, hnext]
    obtain ⟨z, u, -, main⟩ := closeSpot_ended (s := s.withClaimDropped.modSsq Ssq.withDeferred) hi
      (by rw [hidx]; exact hentry) hb hp hend hnext' hu
    rw [hres] at main
    have hq := congrArg State.ssq (closed.symm.trans main)
    have hk := congrArg State.rlk (closed.symm.trans main)
    exact ⟨congrArg Ssq.cursor hq, congrArg Ssq.moveTimer hq, congrArg Ssq.moveOpen hq, hk⟩
  case full =>
    obtain ⟨hi, -, -, -, hp, -⟩ := id hm
    refine expired (.inl hc) ?_
    rw [claimWaitExpired_waiting hc hn, claimTimedOut_main (s := s.withClaimDropped) hs hp,
      deferSpot_full (s := s.withClaimDropped) hi hd,
      closeResolved_midPlan (s := s.withClaimDropped) hm, endVisit_noClaim]
    · rfl
    · rfl
  case revisit =>
    refine expired (.inl hc) ?_
    rw [claimWaitExpired_waiting hc hn, claimTimedOut_revisit (s := s.withClaimDropped) hs hp,
      closeResolved_revisit (s := s.withClaimDropped) hi hr hpl hb hp hend hl hcur hdef hnd, endVisit_noClaim]
    · rfl
    · rfl

/-! #### The hold timer and the move timer -/

/-- R14, R35: a cancelled CLAIM choice changes the choice, its moment and the CLAIM slot of the bus alone. -/
theorem voidClaimChoice_zbc : (voidClaimChoice s).zbc = { s.zbc with
    chosen := (voidClaimChoice s).zbc.chosen, startIn := (voidClaimChoice s).zbc.startIn,
    claimSlot := (voidClaimChoice s).zbc.claimSlot } := by
  by_cases hc : s.zbc.chosen = some .claim
  · rw [voidClaimChoice, if_pos hc, voidChoice_claim hc]
  · rw [voidClaimChoice, if_neg hc]

/-- R44: a request cancelled without a grant changes of the bus what a void choice changes. -/
theorem cancelRequest_zbc (h : s.sru.claim ≠ .granted) : (cancelRequest s).zbc = { s.zbc with
    chosen := (cancelRequest s).zbc.chosen, startIn := (cancelRequest s).zbc.startIn,
    claimSlot := (cancelRequest s).zbc.claimSlot } := by
  cases hc : s.sru.claim <;> simp only [cancelRequest, hc]
  case none => rfl
  case waiting => exact voidClaimChoice_zbc
  case offered => rfl
  case granted => exact absurd hc h
  case releasing => rfl

/-- R49, R114: without a grant the end of a hold changes of the bus the choice alone. -/
theorem holdCleared_zbc (h : s.sru.claim ≠ .granted) : (holdCleared s).zbc = { s.zbc with
    chosen := (holdCleared s).zbc.chosen, startIn := (holdCleared s).zbc.startIn,
    claimSlot := (holdCleared s).zbc.claimSlot } := by
  unfold holdCleared
  split
  · split
    · exact callArbitration_zbc
    · dsimp only
      split
      · rw [callArbitration_zbc, cancelRequest_zbc]
        · rfl
        · exact h
      · rw [callArbitration_zbc]; rfl
  · exact callArbitration_zbc

/-- R67: the command of a hold timer at 0. -/
theorem exec_holdTimerExpiry_due (hh : s.bq.hold = true) (ht : s.bq.holdTimer = some 0) :
    exec .holdTimerExpiry s = .next (holdCleared (raise .zoneHoldChange 3 0 0 0
      { s with bq := { s.bq with hold := false, holdTimer := none } })) := by
  have hl : s.holdTimerLeft = some 0 := by rw [State.holdTimerLeft, if_pos hh, ht]
  rw [exec_holdTimerExpiry, hl]; rfl

/-- R112: the moment at which the robot is late with the spot at the cursor of MAIN. -/
theorem lateAt_expected {e : PlanEntry} (hs : s.ssq.state = .awaitGun) (hp : s.ssq.pass = .main)
    (ho : s.ssq.moveOpen = true) (hn : s.ssq.late = false) (he : s.ssq.plan[s.ssq.cursor]? = some e)
    (hm : s.ssq.learned.getD e.recIdx 0 ≠ 0) :
    s.lateAt = some (s.ssq.learned.getD e.recIdx 0 * (128 + s.settings.lateMargin) / 128 * 10000) := by
  rw [State.lateAt, if_pos ⟨hs, hp, ho, hn⟩, he]
  exact if_neg hm

/-- R112: with the late mark set the robot is late no more. -/
theorem lateAt_told (h : s.ssq.late = true) : s.lateAt = none := if_neg (by simp [h])

/-- Settles O49: the end of the hold by its timer, and the late threshold of the move. -/
theorem holdExpiryAndRobotLate : Obligations.HoldExpiryAndRobotLate := by
  refine fun s => ⟨fun hh ht => ?hold, fun e hh hs hp ho hn he hm hl => ⟨?late, ?told⟩⟩
  case hold =>
    intro told
    have cleared : exec .holdTimerExpiry s = .next (holdCleared told) := exec_holdTimerExpiry_due hh ht
    refine ⟨fun hs => ?_, _, cleared, holdCleared_ended (s := told), ?_, fun hc => holdCleared_zbc (s := told) hc⟩
    · rw [cleared]; exact congrArg _ (if_neg hs)
    · obtain ⟨z, u, q, e⟩ := holdCleared_changes (s := told)
      rw [e]
  case late =>
    have h0 : s.moveLeft = some 0 := by
      rw [State.moveLeft, if_neg (by simp [hh]), lateAt_expected hs hp ho hn he hm, Option.map_some,
        Nat.sub_eq_zero_of_le hl]
    rw [exec_robotLate, h0]
    show Host.Outcome.next (raiseLate s) = _
    simp only [raiseLate, he]; rfl
  case told =>
    generalize ht : ({ s with ssq := { s.ssq with late := true } } : State) = t
    have h0 : t.moveLeft = none := by
      rw [State.moveLeft, lateAt_told (by rw [← ht])]
      split <;> rfl
    rw [exec_robotLate, h0]; rfl

end Sys2Proof.Machine

/-! ### Updates of the stage link (R45, R91, R99 to R102, R123 to R148, R156, R160) -/

namespace Sys2Proof.Machine

variable {s : State}

theorem exec_stageUpdate (s : State) : exec .stageUpdate s = .next (onTimer s.updateLeft updateStage s) := rfl

/-! #### An update that finds no LINK fault -/

/-- R146: the node with the answer of the update before counted, missing or not. -/
def State.withAnswerCounted (s : State) : State := { s with sgl := { s.sgl with missing := s.sgl.missingNow } }

theorem exec_stageUpdate_due {p : Phase} (h : s.updateDue p) :
    exec .stageUpdate s = .next (profileUpdate s.withAnswerCounted) := updateStage_due h

theorem updateDue_phase {p : Phase} (h : s.updateDue p) : s.withAnswerCounted.cpg.phase = p := by
  obtain ⟨-, -, -, hp⟩ := h
  exact hp

theorem exec_stageUpdate_prestart (h : s.updateDue .prestart) :
    exec .stageUpdate s = .next (prestartUpdate s.withAnswerCounted) := by
  rw [exec_stageUpdate_due h]; simp only [profileUpdate, updateDue_phase h]

theorem exec_stageUpdate_upslope (h : s.updateDue .upslope) :
    exec .stageUpdate s = .next (upslopeUpdate s.withAnswerCounted) := by
  rw [exec_stageUpdate_due h]; simp only [profileUpdate, updateDue_phase h]

theorem exec_stageUpdate_cool (h : s.updateDue .cool) :
    exec .stageUpdate s = .next (coolUpdate s.withAnswerCounted) := by
  rw [exec_stageUpdate_due h]; simp only [profileUpdate, updateDue_phase h]

theorem exec_stageUpdate_downslope (h : s.updateDue .downslope) :
    exec .stageUpdate s = .next (downslopeUpdate s.withAnswerCounted) := by
  rw [exec_stageUpdate_due h]; simp only [profileUpdate, updateDue_phase h]

theorem exec_stageUpdate_aborting (h : s.updateDue .aborting) :
    exec .stageUpdate s = .next (abortUpdate s.withAnswerCounted) := by
  rw [exec_stageUpdate_due h]; simp only [profileUpdate, updateDue_phase h]

theorem updateDue_active {p : Phase} (h : s.updateDue p) : s.sgl.link = .active := h.1

theorem cpgSchedule_spot {sp : CpgSpot} (h : s.cpg.spot = some sp) : s.cpgSchedule = scheduleOf s.pst sp.sched := by
  simp only [State.cpgSchedule, h]

theorem sendSetpoint_counted (v : Nat) : sendSetpoint v s.withAnswerCounted = s.withSetpoint v := rfl

/-- R129, R130: an update of UPSLOPE before its last has passed. -/
theorem upslopeUpdate_running (h : s.cpg.count < 2 * s.cpgSchedule.upslope) : upslopeUpdate s.withAnswerCounted =
    s.withSetpoint (upslopeSetpoint s.cpgSchedule.shape s.cpg.g (2 * s.cpgSchedule.upslope) (s.cpg.count + 1)
      s.cpg.setpoint) := if_pos h

theorem upslopeUpdate_over (h : 2 * s.cpgSchedule.upslope ≤ s.cpg.count) :
    upslopeUpdate s.withAnswerCounted = s.withPulse s.cpgSchedule := if_neg (Nat.not_lt.2 h)

/-- R129: a LINEAR upslope before its last update. -/
theorem upslopeSetpoint_linear {shape n k : Nat} (hs : shape = 0) (hk : k ≠ n) (g prev : Nat) :
    upslopeSetpoint shape g n k prev = g * k / n := by
  rw [upslopeSetpoint, if_neg hk, if_pos hs]

/-- R130: a GEOMETRIC upslope before its last update. -/
theorem upslopeSetpoint_geometric {shape n k : Nat} (hs : shape ≠ 0) (hk : k ≠ n) (g prev : Nat) :
    upslopeSetpoint shape g n k prev = prev + (g - prev + 7) / 8 := by
  rw [upslopeSetpoint, if_neg hk, if_neg hs]; rfl

theorem upslopeSetpoint_last {shape n k : Nat} (hk : k = n) (g prev : Nat) : upslopeSetpoint shape g n k prev = g :=
  if_pos hk

/-! #### PRESTART -/

theorem lapseUpdates_row {r : Row} (h : s.ownRow = some r) : s.lapseUpdates = ceilDiv (2 * r.lapse) 1000 := by
  simp only [State.lapseUpdates, h]; rfl

/-- R128: the profile given up is OFF, and the table stands. -/
theorem giveUp_keeps : (giveUp s).cpg = cpgOff s.cpg ∧ (giveUp s).plt = s.plt := by
  unfold giveUp
  obtain ⟨z, u, er⟩ := releaseOrder_changes (s := s)
  obtain ⟨_, _, _, _, _, _, e⟩ := closeResolved_changes (s := standDown (releaseOrder s)) .missed .stage
  rw [e, er]; exact ⟨rfl, rfl⟩

/-- R147, R148: whatever its state, the stage link is IDLE once current and spot are over. -/
theorem endFault_leaveActive (g : Sgl) : (endFault (leaveActive g)).link = .idle := by
  by_cases h : g.link = .fault
  · have hl : (leaveActive g).link = .fault := by rw [leaveActive, if_neg (by simp [h])]; exact h
    rw [endFault, if_pos hl]
  · rw [endFault_of_ne] <;> rw [leaveActive_idle h]; nofun

/-- R45, R91, R100, R128: a spot of MAIN in PRESTART given up with a grant is MISSED STAGE, and another follows. -/
theorem giveUp_missed {h : SpotInHand} {e next : PlanEntry} {b : ActiveBody} {g : Sgl} {r : Row}
    (hm : ({ s with sgl := g } : State).midPlan h e next b) (hg : s.sru.claim = .granted) (hr : s.ownRow = some r) :
    s.releasedIn (giveUp s) r ∧
    (giveUp s).sru = { s.sru.visitOver .releasing with record := (giveUp s).sru.record } ∧
    (giveUp s).ssq = s.ssqMissed .stage ∧ (giveUp s).rlk = s.rlkMissed b e .stage h.earlyOpen ∧
    (giveUp s).sgl = endFault (leaveActive s.sgl) := by
  obtain ⟨released, hsru⟩ := releaseOrder_released hg hr
  obtain ⟨z, u, er⟩ := releaseOrder_changes (s := s)
  rw [er] at released hsru
  have hu : u.claim = .releasing := released.1
  obtain ⟨z', u', ⟨ended, -⟩, closed⟩ :=
    closeResolved_ended (s := standDown { s with zbc := z, sru := u }) (g := g) hm .stage
  obtain ⟨eu, ez⟩ : u' = u.visitOver u.claim ∧ z' = z := ended (.inr hu)
  rw [giveUp, er, closed, eu, ez]
  refine ⟨⟨hu, released.2⟩, ?_, rfl, rfl, rfl⟩
  show u.visitOver u.claim = { s.sru.visitOver .releasing with record := u.record }
  rw [hu, show u = _ from hsru]; rfl

/-- R123, R124, R127: W rises and the current of the spot is begun. -/
theorem countSpot_begun (hc : s.sru.claim ≠ .waiting) (hw : s.cpg.w ≤ 65535) :
    (countSpot s).modCpg (fun c => { c with begun := true }) = s.withBegun := by
  have counted : setWeldCount (min 65535 (s.cpg.w + 1)) s =
      s.modCpg fun c => { c with w := min 65535 (s.cpg.w + 1) } := if_neg fun h => hc h.2
  simp only [countSpot, counted, State.withBegun]
  by_cases h : s.cpg.w < 65535 ∧ s.cpg.w + 1 = s.pst.dressLimit
  · have hmin : min 65535 (s.cpg.w + 1) = s.cpg.w + 1 := by omega
    rw [if_pos h, if_pos (by omega), hmin]; rfl
  · rw [if_neg h, if_neg (by omega)]; rfl

/-- R124: of the rest of the node the begin of a current can change the reports alone. -/
theorem withBegun_changes : ∃ k, ∀ g, ({ s with sgl := g } : State).withBegun =
    { s with sgl := g, rlk := k, cpg := { s.cpg with begun := true, w := min 65535 (s.cpg.w + 1) } } := by
  by_cases h : s.cpg.w < 65535 ∧ s.cpg.w + 1 = s.pst.dressLimit
  · exact ⟨(raise .tipDressDue (byte ((s.cpg.w + 1) / 256)) (byte (s.cpg.w + 1)) 0 0 s).rlk,
      fun g => by rw [State.withBegun, if_pos h]; rfl⟩
  · exact ⟨s.rlk, fun g => by rw [State.withBegun, if_neg h]⟩

/-- R127: current begins with the first update of UPSLOPE. -/
theorem beginCurrent_counted (hc : s.sru.claim ≠ .waiting) (hw : s.cpg.w ≤ 65535) :
    beginCurrent s.withAnswerCounted = upslopeUpdate ({ s.withBegun with
      cpg := { s.withBegun.cpg with phase := .upslope, count := 0 } } : State).withAnswerCounted := by
  obtain ⟨k, hk⟩ := withBegun_changes (s := s)
  have h1 : s.withAnswerCounted.withBegun = s.withBegun.withAnswerCounted := by
    have e := hk s.sgl
    rw [State.withAnswerCounted, hk, State.withAnswerCounted, e]
  rw [beginCurrent, countSpot_begun (s := s.withAnswerCounted) hc hw, h1]; rfl

/-- R127: an update in PRESTART whose own row has the lapse left for the profile, with the stage ready. -/
theorem prestartUpdate_budget {sp : CpgSpot} {r : Row} (hs : s.cpg.spot = some sp) (hr : s.ownRow = some r) :
    prestartUpdate s =
      let c := scheduleOf s.pst sp.sched
      if ceilDiv (2 * r.lapse) 1000 < 2 * (profileMs c + reserveMs c + 4) then giveUp (sendSetpoint 0 s)
      else if stageReady s.sgl then beginCurrent s else sendSetpoint 0 s := by
  simp only [prestartUpdate, lapseUpdates_row hr, cpgSchedule_spot hs]; rfl

/-- Settles O52: the lapse test decides whether the spot is given up, and then the stage whether current begins. -/
theorem prestartWaitsBeginsOrGivesUp : Obligations.PrestartWaitsBeginsOrGivesUp := by
  intro s sp r hd hs hr c budget
  have due := exec_stageUpdate_prestart hd
  rw [prestartUpdate_budget (s := s.withAnswerCounted) hs hr] at due
  refine ⟨fun hb => ?short, fun hb hn => ?waits, fun hb hready hg hw => ?begins⟩
  case short =>
    rw [if_pos (by exact hb), sendSetpoint_counted] at due
    obtain ⟨hcpg, hplt⟩ := giveUp_keeps (s := s.withSetpoint 0)
    refine ⟨⟨_, due, by rw [hcpg]; rfl, by rw [hcpg]; rfl, by rw [hcpg]; rfl, hplt⟩, fun h e next b hg hm => ?_⟩
    obtain ⟨h1, h2, h3, h4, h5⟩ := giveUp_missed (s := s.withSetpoint 0) (g := s.sgl) hm hg hr
    refine ⟨_, due, h1, h2, h3, h4, ?_, ?_⟩ <;> rw [h5]
    · exact endFault_leaveActive _
    · rw [endFault_lastFrame, leaveActive_lastFrame]; rfl
  case waits =>
    have hn' : stageReady s.withAnswerCounted.sgl = false := hn
    rw [if_neg (by exact Nat.not_lt.2 hb), hn'] at due
    exact due
  case begins =>
    intro begun upslope
    have hr' : stageReady s.withAnswerCounted.sgl = true := hready
    rw [if_neg (by exact Nat.not_lt.2 hb), if_pos hr', beginCurrent_counted (by simp [hg]) hw] at due
    have hsch : upslope.cpgSchedule = c := by
      obtain ⟨k, hk⟩ := withBegun_changes (s := s)
      have hpst : begun.pst = s.pst := by rw [show begun = _ from hk s.sgl]
      rw [cpgSchedule_spot (s := upslope) (sp := sp) hs]
      exact congrArg (scheduleOf · sp.sched) hpst
    have rising : ∀ {v : Nat}, 0 < c.upslope → upslopeSetpoint c.shape s.cpg.g (2 * c.upslope) 1 s.cpg.setpoint = v →
        exec .stageUpdate s = .next (upslope.withSetpoint v) := by
      rintro _ hu rfl
      rw [due]
      have h := upslopeUpdate_running (s := upslope) (by rw [hsch]; exact Nat.mul_pos (by decide) hu)
      rw [hsch] at h
      exact congrArg _ h
    refine ⟨fun hu hl => rising hu (upslopeSetpoint_linear hl (by omega) _ _), fun hu hge h0 => rising hu ?_,
      fun hu => ?_⟩
    · rw [upslopeSetpoint_geometric hge (by omega), h0, Nat.zero_add, Nat.sub_zero]
    · have h := upslopeUpdate_over (s := upslope) (by rw [hsch, hu])
      rw [hsch] at h
      exact due.trans (congrArg _ h)

/-! #### The end of current -/

theorem resolveEntry_entry {q : Ssq} {i : Nat} {e : PlanEntry} (h : q.plan[i]? = some e) (o : Outcome) (c : Cause) :
    (resolveEntry i o c q).plan[i]? = some { e with outcome := o, cause := c } := by
  simp [resolveEntry, leaveDeferred, setOutcome, h]

/-- R99, R101: current end with a hold time and no early open resolves the spot, and HOLD runs. -/
theorem currentEnd_resolved {h : SpotInHand} {e : PlanEntry} {o : Outcome} {c : Cause} (h1 : s.ssq.inHand = some h)
    (h2 : h.earlyOpen = false) (h3 : s.ssq.plan[h.planIdx]? = some e) (h4 : 0 < (scheduleOf s.pst e.sched).hold)
    (ho : outcomeAtEnd s.cpg.abort s.wmn.worst = (o, c)) :
    (currentEnd s).ssq.state = .hold ∧
    (currentEnd s).ssq.plan[h.planIdx]? = some { e with outcome := o, cause := c } := by
  obtain ⟨z, u, -, -, ended⟩ := currentEnd_hold h1 h2 h3 h4
  rw [ended, ho]
  exact ⟨rfl, resolveEntry_entry h3 o c⟩

/-- R135: the update after the last of DOWNSLOPE is current end. -/
theorem downslopeUpdate_over (h : 2 * s.cpgSchedule.downslope ≤ s.cpg.count) :
    downslopeUpdate s.withAnswerCounted = currentEnd (s.withSetpoint 0) := if_neg (Nat.not_lt.2 h)

theorem downslopeUpdate_running (h : s.cpg.count < 2 * s.cpgSchedule.downslope) :
    downslopeUpdate s.withAnswerCounted = s.withSetpoint (downslopeSetpoint s.cpg.g s.cpgSchedule.endPercent
      (2 * s.cpgSchedule.downslope) (s.cpg.count + 1)) := if_pos h

theorem coolUpdate_running (h : s.cpg.count < 2 * s.cpgSchedule.cool) :
    coolUpdate s.withAnswerCounted = s.withSetpoint 0 := if_pos h

theorem coolUpdate_over (h : 2 * s.cpgSchedule.cool ≤ s.cpg.count) :
    coolUpdate s.withAnswerCounted = s.withPulse s.cpgSchedule := if_neg (Nat.not_lt.2 h)

/-- Settles O54: each update by its phase and the updates of the phase that have passed. -/
theorem currentEndJudgesTheSpot : Obligations.CurrentEndJudgesTheSpot := by
  refine ⟨fun s sp hs => ?updates, fun s sp h e hd hs hi ho he hsch hhold hover hab => ?ended⟩
  case updates =>
    intro c g
    have hc : s.cpgSchedule = c := cpgSchedule_spot hs
    refine ⟨fun hd => ?upslope, fun hd => ?cool, fun hd hn => ?downslope⟩
    case upslope =>
      have rising : ∀ {v : Nat}, s.cpg.count < 2 * c.upslope →
          upslopeSetpoint c.shape g (2 * c.upslope) (s.cpg.count + 1) s.cpg.setpoint = v →
          exec .stageUpdate s = .next (s.withSetpoint v) := by
        rintro _ hn rfl
        rw [exec_stageUpdate_upslope hd, upslopeUpdate_running (by rwa [hc]), hc]
      refine ⟨fun hsh hn => rising (by omega) (upslopeSetpoint_geometric hsh (by omega) _ _),
        fun _ hn => rising (by omega) (upslopeSetpoint_last hn _ _), fun hn => ?_⟩
      rw [exec_stageUpdate_upslope hd, upslopeUpdate_over (by rwa [hc]), hc]
    case cool =>
      refine ⟨fun hn => ?_, fun hn => ?_⟩
      · rw [exec_stageUpdate_cool hd, coolUpdate_running (by rwa [hc])]
      · rw [exec_stageUpdate_cool hd, coolUpdate_over (by rwa [hc]), hc]
    case downslope =>
      rw [exec_stageUpdate_downslope hd, downslopeUpdate_running (by rwa [hc]), hc]; rfl
  case ended =>
    have due : exec .stageUpdate s = .next (currentEnd (s.withSetpoint 0)) := by
      rw [exec_stageUpdate_downslope hd, downslopeUpdate_over (by rw [cpgSchedule_spot hs]; exact hover)]
    have houtcome : outcomeAtEnd (s.withSetpoint 0).cpg.abort (s.withSetpoint 0).wmn.worst =
        (if s.wmn.worst = .ok then .good else .suspect, .none) := by
      rw [show (s.withSetpoint 0).cpg.abort = none from hab, outcomeAtEnd]
      split
      · rename_i hw; rw [if_pos (show s.wmn.worst = .ok from hw)]
      · rename_i hw; rw [if_neg (show ¬s.wmn.worst = .ok from hw)]
    have hhold' : 0 < (scheduleOf (s.withSetpoint 0).pst e.sched).hold := by rw [hsch]; exact hhold
    have hlink : (leaveActive (s.withSetpoint 0).sgl).link = .idle :=
      leaveActive_idle (by show s.sgl.link ≠ _; simp [updateDue_active hd])
    obtain ⟨-, hplan⟩ := currentEnd_resolved (s := s.withSetpoint 0) hi ho he hhold' houtcome
    have hrel := fun r hg hr => currentEnd_released (s := s.withSetpoint 0) (r := r) hg hr
    obtain ⟨z, u, hq, ht, ended⟩ := currentEnd_hold (s := s.withSetpoint 0) hi ho he hhold'
    rw [ended] at due hplan hrel
    rw [hsch] at *
    exact ⟨_, due, rfl, rfl, rfl, rfl, hlink, leaveActive_lastFrame _, rfl, hplan, rfl, rfl, rfl, rfl, rfl, hq, ht,
      hrel⟩

/-! #### The abort paths -/

theorem abortUpdate_ramp {a : AbortRecord} (ha : s.cpg.abort = some a) (hp : a.path = .ramp)
    (hl : s.cpg.slotLost = false) (hn : s.cpg.count < 7) :
    abortUpdate s.withAnswerCounted = s.withSetpoint (a.s0 - a.s0 * (s.cpg.count + 1) / 8) := by
  have ha' : s.withAnswerCounted.cpg.abort = some a := ha
  have hl' : ¬(a.path = .cut ∨ s.withAnswerCounted.cpg.slotLost = true) := by
    rw [hp, show s.withAnswerCounted.cpg.slotLost = _ from hl]; simp
  have hn' : s.withAnswerCounted.cpg.count + 1 < Config.rampUpdates := Nat.succ_lt_succ hn
  simp only [abortUpdate, ha', hl', if_false, hn', if_true]; rfl

/-- R137, R138, R142: the updates of ABORTING that end the current. -/
theorem abortUpdate_last {a : AbortRecord} (ha : s.cpg.abort = some a)
    (h : a.path = .cut ∨ s.cpg.slotLost = true ∨ 7 ≤ s.cpg.count) :
    abortUpdate s.withAnswerCounted = currentEnd (s.withSetpoint 0) := by
  have ha' : s.withAnswerCounted.cpg.abort = some a := ha
  simp only [abortUpdate, ha']
  by_cases hl : a.path = .cut ∨ s.cpg.slotLost = true
  · exact if_pos hl
  · have hn : ¬s.cpg.count + 1 < Config.rampUpdates := by
      have : 7 ≤ s.cpg.count := by tauto
      unfold Config.rampUpdates; omega
    exact (if_neg hl).trans (if_neg hn)

/-- Settles O55: the abort path decides between a setpoint of the ramp and current end. -/
theorem abortPathBringsCurrentToZero : Obligations.AbortPathBringsCurrentToZero := by
  intro s a hd ha
  have due := exec_stageUpdate_aborting hd
  refine ⟨fun hp hl hn => by rw [due, abortUpdate_ramp ha hp hl hn], fun h => ?_⟩
  rw [abortUpdate_last ha h] at due
  obtain ⟨hcpg, hframe, -⟩ := currentEnd_keeps (s := s.withSetpoint 0)
  refine ⟨_, due, by rw [hcpg]; rfl, by rw [hcpg]; rfl, hframe,
    currentEnd_idle (by show s.sgl.link ≠ _; simp [updateDue_active hd]), fun h e hi ho he hhold => ?_⟩
  have houtcome : outcomeAtEnd (s.withSetpoint 0).cpg.abort (s.withSetpoint 0).wmn.worst = (.aborted, a.cause) := by
    rw [show (s.withSetpoint 0).cpg.abort = _ from ha]; rfl
  obtain ⟨hstate, hplan⟩ := currentEnd_resolved (s := s.withSetpoint 0) hi ho he hhold houtcome
  exact ⟨hstate, hplan, fun r hg hr => currentEnd_released (s := s.withSetpoint 0) hg hr⟩

/-! #### The LINK fault -/

/-- R146: the third unanswered update in a row is a LINK fault. -/
theorem exec_stageUpdate_third (h1 : s.sgl.link = .active) (h2 : s.sgl.answered = false) (h3 : s.sgl.missing = 2)
    (h4 : s.sgl.updateIn = 0) :
    exec .stageUpdate s = .next (linkFault { s with sgl := { s.sgl with missing := 3 } }) := by
  have hl : s.updateLeft = some 0 := by simp [State.updateLeft, h1, h4]
  have hm : s.modSgl countMissing = { s with sgl := { s.sgl with missing := 3 } } := by
    simp [State.modSgl, countMissing, h2, h3, Config.linkMissing]
  rw [exec_stageUpdate, hl, onTimer, elapse_zero]
  simp only [updateStage, h1, hm]
  exact congrArg _ (if_pos ⟨h2, rfl⟩)

/-- R147: in FAULT an update carries 0. -/
theorem exec_stageUpdate_fault (h : s.sgl.link = .fault) (h0 : s.sgl.updateIn = 0) :
    exec .stageUpdate s = .next (s.modSgl (sendFrame 0)) := by
  have hl : s.updateLeft = some 0 := by simp [State.updateLeft, h, h0]
  rw [exec_stageUpdate, hl, onTimer, elapse_zero]
  simp only [updateStage, h]

/-- R155: the causes that the ABORT action gives a result. -/
theorem resultAbort_cause {action : Nat} {r : Worst} {cause : Cause} (h : resultAbort action r = some cause) :
    action = 1 ∧ ((r = .high ∧ cause = .high) ∨ (r = .none ∧ cause = .noCurrent)) := by
  unfold resultAbort at h
  split at h
  · rename_i ha
    refine ⟨ha, ?_⟩
    cases r <;> simp at h <;> simp [h]
  · cases h

/-- R146, R156, R160: the abort that a LINK fault in current takes or finds taken. -/
theorem linkAbort_inCurrent (hc : s.inCurrent) : ∃ a m n, linkAbort s = { s with
      cpg := { s.cpg with phase := .aborting, count := 0, abort := some a }, wmn := m, freeIndex := n } ∧
    (s.cpg.phase ≠ .pulse ∨ s.cpg.count < 2 * s.cpgSchedule.pulse → a.cause = .link ∧ m = s.wmnCut) ∧
    (s.cpg.phase = .pulse → s.cpg.count = 2 * s.cpgSchedule.pulse →
      m.results = s.wmn.results.set (s.wmn.pulseIdx - 1) (.judged (pulseJudgement s.wmn)) ∧
      (a.cause = .link ∨ (s.cpgSchedule.action = 1 ∧ ((pulseJudgement s.wmn = .high ∧ a.cause = .high) ∨
        (pulseJudgement s.wmn = .none ∧ a.cause = .noCurrent))))) := by
  unfold linkAbort
  by_cases hend : s.cpg.phase = .pulse ∧ s.cpg.count = 2 * s.cpgSchedule.pulse
  · have early : ¬(s.cpg.phase ≠ .pulse ∨ s.cpg.count < 2 * s.cpgSchedule.pulse) := by
      rintro (h | h)
      · exact h hend.1
      · omega
    rw [if_pos hend]
    dsimp only
    split
    · exact ⟨_, _, _, rfl, fun h => absurd h early, fun _ _ => ⟨rfl, .inl rfl⟩⟩
    · unfold resultThenLink
      dsimp only
      split
      · rename_i cause hcause
        exact ⟨_, _, _, rfl, fun h => absurd h early, fun _ _ => ⟨rfl, .inr (resultAbort_cause hcause)⟩⟩
      · exact ⟨_, _, _, rfl, fun h => absurd h early, fun _ _ => ⟨rfl, .inl rfl⟩⟩
  · rw [if_neg hend, takeAbort_inCurrent hc]
    exact ⟨_, _, _, rfl, fun _ => ⟨rfl, rfl⟩, fun h1 h2 => absurd ⟨h1, h2⟩ hend⟩

/-- R137, R140, R146, R147: a LINK fault ends the current of a spot whose abort is taken: the update carries 0, the spot
is ABORTED with the cause of that abort and HOLD runs, in which the stage link stays in FAULT. -/
theorem currentEnd_linkFault {h : SpotInHand} {e : PlanEntry} {a : AbortRecord} (h1 : s.ssq.inHand = some h)
    (h2 : h.earlyOpen = false) (h3 : s.ssq.plan[h.planIdx]? = some e) (h4 : 0 < (scheduleOf s.pst e.sched).hold)
    (ha : s.cpg.abort = some a) {t : State} (ht : t = currentEnd (enterFault s)) :
    t.cpg.phase = .off ∧ t.cpg.setpoint = 0 ∧ t.sgl.lastFrame = setpointFrame s.sgl.nextNum 0 ∧
    t.sgl.link = .fault ∧ t.ssq.state = .hold ∧
    t.ssq.plan[h.planIdx]? = some { e with outcome := .aborted, cause := a.cause } ∧ t.plt = s.plt ∧ t.wmn = s.wmn ∧
    ∀ r, s.sru.claim = .granted → s.ownRow = some r → s.releasedIn t r := by
  have houtcome : outcomeAtEnd (enterFault s).cpg.abort (enterFault s).wmn.worst = (.aborted, a.cause) := by
    rw [show (enterFault s).cpg.abort = _ from ha]; rfl
  obtain ⟨hstate, hplan⟩ := currentEnd_resolved (s := enterFault s) h1 h2 h3 h4 houtcome
  have hrel := fun r hg hr => currentEnd_released (s := enterFault s) (r := r) hg hr
  obtain ⟨z, u, -, -, ended⟩ := currentEnd_hold (s := enterFault s) h1 h2 h3 h4
  rw [← ht] at hstate hplan hrel
  rw [ended] at ht
  subst ht
  exact ⟨rfl, rfl, rfl, rfl, hstate, hplan, rfl, rfl, hrel⟩

/-- R147: the updates of the FAULT that a spot is left in. -/
theorem exec_stageUpdate_inFault {t : State} (h : t.sgl.link = .fault) :
    exec .stageUpdate { t with sgl := { t.sgl with updateIn := 0 } } = .next { t with sgl := { t.sgl with
      lastFrame := setpointFrame t.sgl.nextNum 0, nextNum := (t.sgl.nextNum + 1) % 256, answered := false,
      updateIn := 500 } } := exec_stageUpdate_fault h rfl

/-- Settles O56: the phase decides what the LINK fault ends, and a pulse end whose abort it is. -/
theorem thirdMissingAnswerIsALinkFault : Obligations.ThirdMissingAnswerIsALinkFault := by
  intro s h e h1 h2 h3 h4 hi
  have fault := exec_stageUpdate_third h1 h2 h3 h4
  generalize hw : ({ s with sgl := { s.sgl with missing := 3 } } : State) = w at fault
  refine ⟨fun sp hc ho he hs hhold => ?current, fun a hp ha ho he hhold => ?aborting,
    fun next b r hp hm hg hr => ?prestart⟩
  case current =>
    have hwc : w.inCurrent := by rw [← hw]; exact hc
    have hf : linkFault w = currentEnd (enterFault (linkAbort w)) := by
      rcases hwc with hp | hp | hp | hp <;> simp only [linkFault, hp]
    have hsch : w.cpgSchedule = scheduleOf s.pst sp.sched := by rw [← hw]; exact cpgSchedule_spot hs
    obtain ⟨a, m, n, hab, hcut, hjudged⟩ := linkAbort_inCurrent hwc
    rw [hsch] at hcut hjudged
    rw [hf, hab] at fault
    subst hw
    obtain ⟨a1, a2, a3, a4, a5, a6, a7, a8, a9⟩ :=
      currentEnd_linkFault (s := { s with
        sgl := { s.sgl with missing := 3 }, wmn := m, freeIndex := n,
        cpg := { s.cpg with phase := .aborting, count := 0, abort := some a } }) hi ho he hhold rfl rfl
    refine ⟨_, a.cause, fault, a1, a2, a3, a4, a5, a6, a7, a9, exec_stageUpdate_inFault a4, fun hn => ?_,
      fun hp hn => ?_⟩
    · rw [a8]; exact hcut hn
    · rw [a8]; exact hjudged hp hn
  case aborting =>
    have hf : linkFault w = currentEnd (enterFault w) := by
      have hp' : w.cpg.phase = .aborting := by rw [← hw]; exact hp
      simp only [linkFault, hp']
    rw [hf] at fault
    subst hw
    exact ⟨_, fault, currentEnd_linkFault (s := { s with sgl := { s.sgl with missing := 3 } }) hi ho he hhold ha rfl⟩
  case prestart =>
    have hf : linkFault w = giveUp (enterFault w) := by
      have hp' : w.cpg.phase = .prestart := by rw [← hw]; exact hp
      simp only [linkFault, hp']
    rw [hf] at fault
    subst hw
    obtain ⟨hcpg, hplt⟩ := giveUp_keeps (s := enterFault { s with sgl := { s.sgl with missing := 3 } })
    obtain ⟨r1, -, r3, r4, r5⟩ := giveUp_missed (s := enterFault { s with sgl := { s.sgl with missing := 3 } })
      (g := s.sgl) hm hg hr
    refine ⟨_, fault, by rw [hcpg]; rfl, by rw [hcpg]; rfl, by rw [hcpg]; rfl, ?_, ?_, r1, r3, r4, hplt⟩ <;> rw [r5]
    · rw [endFault_lastFrame, leaveActive_lastFrame]; rfl
    · exact endFault_leaveActive _

end Sys2Proof.Machine

/-! ### Zone hold ended, bodies that join and are offered (R50 to R55, R58, R60 to R63, R66, R70, R75, R86 to R90) -/

namespace Sys2Proof.Machine

variable {s : State}

theorem exec_resumeFrame (arb : ArbField) (s : State) :
    exec (.resumeFrame arb) s = .next (receiveFrame { arb := arb, body := .resume } s) := rfl
theorem exec_bodyFrame (arb : ArbField) (serial : BitVec 24) (style : BitVec 4) (options zoneSeq : BitVec 8)
    (s : State) : exec (.bodyFrame arb serial style options zoneSeq) s =
      .next (receiveFrame { arb := arb, body := .body serial style options zoneSeq } s) := rfl

/-! #### RESUME -/

/-- R66: the node with a set flag cleared and its hold timer stopped, ZONE_HOLD_CHANGE (RESUME) told. -/
def State.withHoldOver (s : State) : State :=
  raise .zoneHoldChange 2 0 0 0 { s with bq := { s.bq with hold := false, holdTimer := none } }

theorem applyResume_clear (h : s.bq.hold = false) : applyResume s = s := if_neg (by simp [h])

theorem applyResume_held (h : s.bq.hold = true) : applyResume s = holdCleared s.withHoldOver := if_pos h

theorem applyFrame_resume (own : Bool) (arb : ArbField) :
    applyFrame own { arb := arb, body := .resume } s = applyResume s := rfl

theorem frameValid_resume {arb : ArbField} (h : arb.sender ≠ 0) :
    frameValid { arb := arb, body := .resume } = true := by
  have hne : arb.sender.toNat ≠ 0 := fun h0 => h (BitVec.eq_of_toNat_eq h0)
  simp [frameValid, hne]

/-- R66, R68: beside the flag, its timer and the report, a RESUME reaches bus, claim and sequencer alone. -/
theorem applyResume_changes (h : s.bq.hold = true) :
    ∃ z u q, applyResume s = { s.withHoldOver with zbc := z, sru := u, ssq := q } := by
  rw [applyResume_held h]; exact holdCleared_changes

/-- R33, R44, R66, R114: what a RESUME that finds the flag set leaves of claim and sequencer. -/
theorem applyResume_ended (h : s.bq.hold = true) : s.holdEndedIn (applyResume s) := by
  rw [applyResume_held h]; exact holdCleared_ended (s := s.withHoldOver)

/-- Settles O41: however a RESUME comes to be applied, the flag decides whether it does anything. -/
theorem resumeFrameClearsTheHold : Obligations.ResumeFrameClearsTheHold := by
  refine fun s arb => ⟨fun own hh => applyResume_clear hh, fun own hh => ?applied, fun hl hp hh => ?heardClear,
    fun hl hp hh => ?heardSet, fun hs h0 hh => ?own⟩
  case applied =>
    have ended := applyResume_ended hh
    obtain ⟨z, u, q, e⟩ := applyResume_changes hh
    rw [applyFrame_resume]
    rw [e] at ended ⊢
    exact ⟨rfl, rfl, ended⟩
  case heardClear =>
    rw [exec_resumeFrame, receiveFrame_peer hl hp, applyFrame_resume,
      applyResume_clear (s := s.afterHearing .receiptSlot) hh]
  case heardSet =>
    have ended := applyResume_ended (s := s.afterHearing .receiptSlot) hh
    obtain ⟨z, u, q, e⟩ := applyResume_changes (s := s.afterHearing .receiptSlot) hh
    rw [exec_resumeFrame, receiveFrame_peer hl hp, applyFrame_resume]
    rw [e] at ended ⊢
    exact ⟨_, rfl, rfl, rfl, ended, rfl, rfl, rfl, rfl, rfl, rfl, rfl⟩
  case own =>
    generalize ht : s.modZbc (fun z => { slotAfterCompletion .announce z with failures := 0 }) = t
    have held : t.bq.hold = true := by rw [← ht]; exact hh
    have ended := applyResume_ended held
    obtain ⟨z, u, q, e⟩ := applyResume_changes held
    rw [exec_ownFrameCompleted, ownCompleted_sending hs, completeAttempt_receipted (frameValid_resume h0), ht,
      applyFrame_resume]
    rw [e] at ended ⊢
    subst ht
    exact ⟨_, rfl, rfl, rfl, ended⟩

/-! #### BODY frames -/

theorem queued_iff {b : Bq} {serial : Nat} : queued b serial = true ↔ ∃ r ∈ b.queue, r.serial = serial := by
  simp [queued]

/-- R53: the node once the zone sequence number of a BODY frame has been tested, the frame's not yet the last. -/
def State.withGapTold (n : Nat) (s : State) : State :=
  match s.bq.lastSeq with
  | none => s
  | some l => if n = (l + 1) % 256 then s else raise .bodyGap (byte ((l + 1) % 256)) (byte n) 0 0 s

theorem withGapTold_bq (n : Nat) : (s.withGapTold n).bq = s.bq := by
  unfold State.withGapTold; split
  · rfl
  · split <;> rfl

/-- R53, R60 to R63: the Body Queue once the sequence number and the pitch of a BODY frame are taken. -/
def Bq.withSequence (b : Bq) (n avg : Nat) : Bq :=
  match b.pitchTimer with
  | none => { b with lastSeq := some n, pitchTimer := some 0 }
  | some us =>
    if 65535 < us / 10000 then { b with lastSeq := some n, pitchTimer := some 0 }
    else { b with
      lastSeq := some n, pitchTimer := some 0, history := max 1 (us / 10000) :: b.history.dropLast,
      basePitch := ((max 1 (us / 10000) :: b.history.dropLast).take avg).sum / avg }

/-- The sequence number of a BODY frame leaves the pitch event what it would be before it. -/
theorem pitchEvent_withSequence (b : Bq) (n avg : Nat) :
    pitchEvent avg { b with lastSeq := some n } = b.withSequence n avg := by
  unfold pitchEvent Bq.withSequence
  cases b.pitchTimer with
  | none => rfl
  | some us =>
    dsimp only
    by_cases h : 65535 < us / 10000
    · rw [if_pos h, show pitchSample us = none from if_pos h]
    · rw [if_neg h, show pitchSample us = some (max 1 (us / 10000)) from if_neg h]; rfl

theorem withSequence_queue (b : Bq) (n avg : Nat) : (b.withSequence n avg).queue = b.queue ∧
    (b.withSequence n avg).arrivalNext = b.arrivalNext := by
  unfold Bq.withSequence; split
  · exact ⟨rfl, rfl⟩
  · split <;> exact ⟨rfl, rfl⟩

/-- R53, R60 to R63: the node once sequence number and pitch of a BODY frame are taken. -/
theorem testSequence_pitched (n avg : Nat) : (testSequence n s).modBq (pitchEvent avg) =
    { s.withGapTold n with bq := s.bq.withSequence n avg } := by
  rw [← pitchEvent_withSequence, ← withGapTold_bq (s := s) n]; rfl

theorem applyBody_duplicate {serial : Nat} (h : ∃ r ∈ s.bq.queue, r.serial = serial) (style : Nat)
    (options : BitVec 8) (zoneSeq : Nat) :
    applyBody serial style options zoneSeq s = raiseSerial .bodyDuplicate serial s :=
  if_pos (queued_iff.2 h)

/-- R53 to R55, R60: a BODY frame that is no duplicate. -/
theorem applyBody_admits {serial : Nat} (h : ∀ r ∈ s.bq.queue, r.serial ≠ serial) (style : Nat)
    (options : BitVec 8) (zoneSeq : Nat) :
    applyBody serial style options zoneSeq s = admitBody serial style options zoneSeq
      { s.withGapTold zoneSeq with bq := s.bq.withSequence zoneSeq s.settings.avgN } := by
  rw [← testSequence_pitched]
  exact if_neg fun hq => by obtain ⟨r, hr, he⟩ := queued_iff.1 hq; exact h r hr he

/-- R55: a body that finds others queued joins the tail. -/
theorem admitBody_behind (hq : s.bq.queue ≠ []) (hl : s.bq.queue.length < 8) (serial style : Nat)
    (options : BitVec 8) (zoneSeq : Nat) :
    admitBody serial style options zoneSeq s = s.modBq (appendBody serial style options zoneSeq) := by
  have hl' : s.bq.queue.length < Config.queueMax := hl
  simp only [admitBody, hl', if_true, hq, if_false]

/-- R55: a body that finds the queue empty joins it and is offered. -/
theorem admitBody_empty (hq : s.bq.queue = []) (serial style : Nat) (options : BitVec 8) (zoneSeq : Nat) :
    admitBody serial style options zoneSeq s = offerQueue (s.modBq (appendBody serial style options zoneSeq)) := by
  have hl : s.bq.queue.length < Config.queueMax := by rw [hq]; decide
  rw [admitBody, if_pos hl]; exact if_pos hq

/-- R54: a full queue drops the body. -/
theorem admitBody_full (hl : 8 ≤ s.bq.queue.length) (serial style : Nat) (options : BitVec 8) (zoneSeq : Nat) :
    admitBody serial style options zoneSeq s = raiseSerial .bodyDropped serial s := if_neg (Nat.not_lt.2 hl)

/-- Settles O42: a queued serial makes a duplicate; else sequence number and pitch are taken, and the length of the
queue decides. -/
theorem bodyFrameJoinsTheQueue : Obligations.BodyFrameJoinsTheQueue := by
  intro s arb serial style options zoneSeq hl hp u v w joined
  have applied : ∀ {t : State}, applyBody serial.toNat style.toNat options zoneSeq.toNat u = t →
      exec (.bodyFrame arb serial style options zoneSeq) s = .next t := by
    rintro _ rfl
    rw [exec_bodyFrame, receiveFrame_peer hl hp]; rfl
  obtain ⟨hqueue, harrival⟩ := withSequence_queue s.bq zoneSeq.toNat s.settings.avgN
  have admitted : (∀ r ∈ s.bq.queue, r.serial ≠ serial.toNat) →
      applyBody serial.toNat style.toNat options zoneSeq.toNat u =
        admitBody serial.toNat style.toNat options zoneSeq.toNat { v with bq := w } :=
    fun hn => applyBody_admits (s := u) hn _ _ _
  have appended :
      ({ v with bq := w } : State).modBq (appendBody serial.toNat style.toNat options zoneSeq.toNat) = joined := by
    show ({ v with bq := appendBody _ _ _ _ w } : State) = _
    unfold appendBody
    rw [show w.queue = s.bq.queue from hqueue, show w.arrivalNext = s.bq.arrivalNext from harrival]
  refine ⟨fun hd => applied (applyBody_duplicate (s := u) hd _ _ _), fun hn hne hlen => applied ?behind,
    fun he => applied ?empty, fun hn hlen => applied ?full⟩
  case behind =>
    rw [admitted hn, ← appended]
    exact admitBody_behind (s := { v with bq := w }) (hqueue.symm ▸ hne) (hqueue.symm ▸ hlen) _ _ _ _
  case empty =>
    rw [admitted (by simp [he]), ← appended]
    exact admitBody_empty (s := { v with bq := w }) (hqueue.trans he) _ _ _ _
  case full =>
    rw [admitted hn]
    exact admitBody_full (s := { v with bq := w }) (hqueue.symm ▸ hlen) _ _ _ _

/-! #### The offered body -/

/-- R90: the walk stops at a spot of a USABLE schedule. -/
theorem walkPlan_usable {e : PlanEntry} (n : Nat) (h : s.ssq.plan[s.ssq.cursor]? = some e)
    (hu : (scheduleOf s.pst e.sched).mark = .usable) : walkPlan n s = s := by
  cases n with
  | zero => rfl
  | succ n => simp only [walkPlan, h, hu, if_true]

/-- R88: the only body of the queue, with an empty plan, is over in its activation. -/
theorem offerQueue_planless {r : BodyRecord} (hq : s.bq.queue = [r]) (hp : (activeFrom s.pst r s.ssq).plan = []) :
    offerQueue s = endBody true false (s.modSsq (activeFrom s.pst r)) := by
  simp only [offerQueue, hq, List.length_singleton, offerHead, State.modSsq_ssq, hp, if_true]

/-- R89, R90: the only body of the queue, with a first spot of a USABLE schedule, is started and awaited. -/
theorem offerQueue_started {r : BodyRecord} {e : PlanEntry} {rest : List PlanEntry} (hq : s.bq.queue = [r])
    (hp : (activeFrom s.pst r s.ssq).plan = e :: rest) (hu : (scheduleOf s.pst e.sched).mark = .usable) :
    offerQueue s = awaitGun (programStart (s.modSsq (activeFrom s.pst r))) := by
  generalize hv : programStart (s.modSsq (activeFrom s.pst r)) = v
  have hplan : v.ssq.plan = e :: rest := by rw [← hv]; exact hp
  have hcursor : v.ssq.cursor = 0 := by rw [← hv]; rfl
  have hpst : v.pst = s.pst := by rw [← hv]; rfl
  have hwalk : ∀ n, walkPlan n v = v := fun n =>
    walkPlan_usable (e := e) n (by rw [hplan, hcursor]; rfl) (by rw [hpst]; exact hu)
  have hlt : v.ssq.cursor < v.ssq.plan.length := by rw [hplan, hcursor]; exact Nat.succ_pos _
  simp only [offerQueue, hq, List.length_singleton, offerHead, State.modSsq_ssq, hp, reduceCtorEq, if_false, hv, hwalk,
    hlt, if_true]

/-- R84, R86: the active body taken from a record, with the program its style maps to. -/
theorem activeFrom_active {p : Pst} {r : BodyRecord} {n : Option Nat} (h : styleProgram p r.style = n) (q : Ssq) :
    (activeFrom p r q).active = some { serial := r.serial, zoneSeq := r.zoneSeq, style := r.style, options := r.options,
                                       program := n } := by rw [← h]; rfl

theorem activeFrom_noProgram {p : Pst} {r : BodyRecord} (h : styleProgram p r.style = none) (q : Ssq) :
    (activeFrom p r q).plan = [] := by simp only [activeFrom, h]

theorem activeFrom_program {p : Pst} {r : BodyRecord} {n : Nat} (h : styleProgram p r.style = some n) (q : Ssq) :
    (activeFrom p r q).plan = (spotList p n r.options).map (planEntryOf p) := by simp only [activeFrom, h]

/-- R89: PROGRAM-START of the active body, and the move timer opened. -/
theorem programStart_active {b : ActiveBody} {e : PlanEntry} {rest : List PlanEntry} (hb : s.ssq.active = some b)
    (hp : s.ssq.plan = e :: rest) : programStart s =
      { generate (.programStart b.serial b.zoneSeq b.style (b.program.getD 255) (rest.length + 1) e.spotId) s with
        ssq := openMove s.ssq } := by
  simp only [programStart, hb, hp]; rfl

/-- R58, R109: the active body, the only one queued, ends: its BODY-DONE is told and its record leaves. -/
theorem endBody_only {r : BodyRecord} {b : ActiveBody} (hq : s.bq.queue = [r]) (hb : s.ssq.active = some b)
    (nowork exited : Bool) : endBody nowork exited s =
      { generate (.bodyDone b.serial b.zoneSeq b.style b.program nowork exited (outcomeCount s.ssq.plan .good)
          (outcomeCount s.ssq.plan .suspect) (outcomeCount s.ssq.plan .aborted) (outcomeCount s.ssq.plan .missed)
          s.bodyE) s with
        bq := { s.bq with queue := [] }, ssq := ssqIdle s.ssq } := by
  have hr : removeHead s.bq = { s.bq with queue := [] } := by rw [removeHead, hq]; rfl
  rw [← hr]
  simp only [endBody, reportBody, hb]; rfl

/-- Settles O43: without a program the plan is empty; with one it is the spot list, whose first spot is awaited. -/
theorem offeredBodyIsActivated : Obligations.OfferedBodyIsActivated := by
  refine fun s r hq => ⟨fun hn => ?nowork, fun n i rest hn hl hu => ?started⟩
  case nowork =>
    have hplan : (s.modSsq (activeFrom s.pst r)).ssq.plan = [] := activeFrom_noProgram hn _
    have hE : (s.modSsq (activeFrom s.pst r)).bodyE = 0 := by simp [State.bodyE, activeFrom]
    refine ⟨ssqIdle (activeFrom s.pst r s.ssq), ?_, rfl, rfl, rfl, rfl⟩
    rw [offerQueue_planless hq hplan,
      endBody_only (s := s.modSsq (activeFrom s.pst r)) hq (activeFrom_active hn _), hplan, hE]
    rfl
  case started =>
    have hplan : (activeFrom s.pst r s.ssq).plan = planEntryOf s.pst i :: rest.map (planEntryOf s.pst) := by
      rw [activeFrom_program hn, hl, List.map_cons]
    refine ⟨(awaitGun (s.modSsq fun q => openMove (activeFrom s.pst r q))).ssq, ?_, rfl, rfl,
      activeFrom_active hn s.ssq, rfl, rfl, rfl, rfl, rfl, rfl, rfl, rfl, rfl, hplan⟩
    rw [offerQueue_started hq hplan hu,
      programStart_active (s := s.modSsq (activeFrom s.pst r)) (activeFrom_active hn _) hplan, List.length_map]
    rfl

end Sys2Proof.Machine

/-! ### Hold end and the end of the load (R51, R58, R63, R91, R101, R102, R106 to R110, R120, R147, R182 to R187) -/

namespace Sys2Proof.Machine

variable {s : State}

theorem exec_validationEnd (s : State) : exec .validationEnd s = .next (validate s) := rfl

/-! #### Hold end -/

/-- R101: the command of a spot whose hold has run. -/
theorem exec_holdEnd_due {h : SpotInHand} (hs : s.ssq.state = .hold) (hh : s.ssq.inHand = some h)
    (h0 : h.holdLeft = 0) : exec .holdEnd s = .next (endHold s) := by
  have hl : s.holdLeft = some 0 := by rw [State.holdLeft, if_pos hs, hh, Option.map_some, h0]
  rw [exec_holdEnd, hl]; rfl

/-- R43, R91, R102: the node with the SPOT-DONE of a welded spot told, its visit over with no claim, and nothing in
hand. -/
def State.withSpotDone (s : State) (h : SpotInHand) (e : PlanEntry) (b : ActiveBody) (res : SpotResult) : State :=
  { generate (.spotDone b.serial b.zoneSeq e.spotId s.ssq.pass e.outcome e.cause res h.earlyOpen) s with
    sru := s.sru.visitOver .none, ssq := { s.ssq with inHand := none } }

/-- R91, R102: a welded spot closed with its claim NONE and the stage link out of FAULT. -/
theorem closeSpot_welded {h : SpotInHand} {e : PlanEntry} {b : ActiveBody} {res : SpotResult}
    (hh : s.ssq.inHand = some h) (hr : h.result = some res) (hb : s.ssq.active = some b)
    (he : s.ssq.plan[h.planIdx]? = some e) (hc : s.sru.claim = .none) (hl : s.sgl.link ≠ .fault) :
    closeSpot s = afterClose (s.withSpotDone h e b res) := by
  generalize hg : generate (.spotDone b.serial b.zoneSeq e.spotId s.ssq.pass e.outcome e.cause res h.earlyOpen) s = g
  have hv : endVisit g = { g with sru := g.sru.visitOver .none } := endVisit_noClaim (by rw [← hg]; exact hc)
  have hf : endFault g.sgl = g.sgl := endFault_of_ne (by rw [← hg]; exact hl)
  simp only [closeSpot, hh, hr, Option.getD_some, reportSpot_entry he hb, hg, hv, State.modSgl, hf, State.modSsq,
    State.withSpotDone]
  rw [← hg]; rfl

theorem afterClose_revisit (hp : s.ssq.pass = .revisit) (he : s.ssq.ending = false) : afterClose s = stepPlan s := by
  simp only [afterClose, he, Bool.false_eq_true, if_false, hp]

/-- R106: REVISIT-START lists the deferred spots by their ids, oldest first. -/
theorem startRevisit_told {b : ActiveBody} {ids : List Nat} (hb : s.ssq.active = some b)
    (hi : s.ssq.deferred.map (fun k => s.ssq.plan[k]?.map PlanEntry.spotId) = ids.map some) : startRevisit s =
      { generate (.revisitStart b.serial b.zoneSeq ids) s with
        ssq := { s.ssq with pass := .revisit, moveOpen := false } } := by
  have hids : s.ssq.deferred.map (fun i => (s.ssq.plan[i]?.map PlanEntry.spotId).getD 0) = ids := by
    have := congrArg (List.map fun o : Option Nat => o.getD 0) hi
    simpa [Function.comp_def] using this
  have told : startRevisit s = (generate (.revisitStart b.serial b.zoneSeq ids) s).modSsq fun q =>
      { q with pass := .revisit, moveOpen := false } := by simp only [startRevisit, hb, hids]
  rw [told]; rfl

/-- R58, R108, R120: the only body of the queue ends, and no other is offered. -/
theorem offerQueue_endBody {r : BodyRecord} {b : ActiveBody} (hq : s.bq.queue = [r]) (hb : s.ssq.active = some b)
    (nowork exited : Bool) : offerQueue (endBody nowork exited s) =
      { generate (.bodyDone b.serial b.zoneSeq b.style b.program nowork exited (outcomeCount s.ssq.plan .good)
          (outcomeCount s.ssq.plan .suspect) (outcomeCount s.ssq.plan .aborted) (outcomeCount s.ssq.plan .missed)
          s.bodyE) s with
        bq := { s.bq with queue := [] }, ssq := ssqIdle s.ssq } := by
  rw [offerQueue_empty] <;> rw [endBody_only hq hb]

/-- R91, R107, R108, R120: after its last spot, or with the ending mark set, the only body of the queue is over. -/
theorem afterClose_done {r : BodyRecord} {b : ActiveBody} (hq : s.bq.queue = [r]) (hb : s.ssq.active = some b)
    (hd : s.ssq.ending = true ∨ (s.ssq.deferred = [] ∧
      ((s.ssq.pass = .main ∧ s.ssq.cursor + 1 = s.ssq.plan.length) ∨
        (s.ssq.pass = .revisit ∧ s.ssq.plan.length ≤ s.ssq.cursor)))) :
    ∃ q, q.state = .idle ∧ q.active = none ∧ q.plan = [] ∧ q.deferred = [] ∧ q.ending = false ∧ q.inHand = none ∧
      q.moveOpen = false ∧ q.learned = s.ssq.learned ∧ afterClose s =
      { generate (.bodyDone b.serial b.zoneSeq b.style b.program false s.ssq.ending (outcomeCount s.ssq.plan .good)
          (outcomeCount s.ssq.plan .suspect) (outcomeCount s.ssq.plan .aborted) (outcomeCount s.ssq.plan .missed)
          s.bodyE) s with
        bq := { s.bq with queue := [] }, ssq := q } := by
  by_cases he : s.ssq.ending = true
  · refine ⟨ssqIdle s.ssq, rfl, rfl, rfl, rfl, rfl, rfl, rfl, rfl, ?_⟩
    rw [he, afterClose, if_pos he, offerQueue_endBody hq hb]
  · have he : s.ssq.ending = false := by simpa using he
    obtain ⟨hdef, ⟨hp, hcur⟩ | ⟨hp, hcur⟩⟩ := hd.resolve_left (by simp [he])
    · refine ⟨ssqIdle (openMove { s.ssq with cursor := s.ssq.cursor + 1 }), rfl, rfl, rfl, rfl, rfl, rfl, rfl, rfl, ?_⟩
      rw [he, afterClose_main hp he, stepPlan_done, offerQueue_endBody (r := r) (b := b)]
      · rfl
      · exact hq
      · exact hb
      · exact hcur.ge
      · exact hdef
    · refine ⟨ssqIdle s.ssq, rfl, rfl, rfl, rfl, rfl, rfl, rfl, rfl, ?_⟩
      rw [he, afterClose_revisit hp he, stepPlan_done hcur hdef, offerQueue_endBody hq hb]

/-- Settles O51: hold end is the closing of the spot, after which pass, plan and deferred list decide. -/
theorem holdEndClosesTheSpot : Obligations.HoldEndClosesTheSpot := by
  refine ⟨fun s h hs hh h0 hf => ⟨_, exec_holdEnd_due hs hh h0, fun hu => ?due, fun hu => ?notDue⟩,
    fun s h e b res hs hh h0 hr hb he hc hl => ?closed⟩
  case due => rw [endHold_fault hh hf, if_pos hu]; rfl
  case notDue => rw [endHold_fault hh hf, if_neg hu]
  case closed =>
    intro told sru
    have hnf : s.sgl.link ≠ .fault := by simp [hl]
    have hsru : sru = s.sru.visitOver .none := by simp only [sru, Sru.visitOver, ← hc]
    rw [hsru, exec_holdEnd_due hs hh h0, endHold_of_ne hnf, closeSpot_welded hh hr hb he hc hnf]
    generalize ht : s.withSpotDone h e b res = t
    have hq : t.ssq = { s.ssq with inHand := none } := by rw [← ht]; rfl
    have hpst : t.pst = s.pst := by rw [← ht]; rfl
    refine ⟨fun next hp hend hn hu => ?next, fun i rest ids hp hend hcur hdef hids => ?revisitStart,
      fun i rest hp hend hcur hdef => ?revisit, fun r hbq hdone => ?done⟩
    case next =>
      rw [afterClose_main (by rw [hq]; exact hp) (by rw [hq]; exact hend),
        stepPlan_usable (e := next) (by rw [State.modSsq_ssq, hq]; exact hn) (by rw [State.modSsq_pst, hpst]; exact hu)]
      subst ht; rfl
    case revisitStart =>
      generalize hv : t.modSsq (fun q => openMove { q with cursor := q.cursor + 1 }) = v
      have hvq : v.ssq = openMove { s.ssq with inHand := none, cursor := s.ssq.cursor + 1 } := by rw [← hv, ← ht]; rfl
      rw [afterClose_main (by rw [hq]; exact hp) (by rw [hq]; exact hend), hv,
        stepPlan_start (by rw [hvq]; exact hcur.ge) (by rw [hvq]; simp [openMove, hdef]) (by rw [hvq]; exact hp),
        startRevisit_told (b := b) (ids := ids) (by rw [hvq]; exact hb) (by rw [hvq]; exact hids)]
      subst hv ht; rfl
    case revisit =>
      rw [afterClose_revisit (by rw [hq]; exact hp) (by rw [hq]; exact hend),
        stepPlan_revisit (by rw [hq]; exact hcur) (by rw [hq]; simp [hdef]) (by rw [hq]; exact hp)]
      subst ht; rfl
    case done =>
      intro count
      obtain ⟨q, h1, h2, h3, h4, h5, h6, h7, h8, closed⟩ :=
        afterClose_done (s := t) (r := r) (b := b) (by rw [← ht]; exact hbq) (by rw [hq]; exact hb)
          (by rw [hq]; exact hdone)
      rw [closed]
      subst ht
      exact ⟨q, rfl, h1, h2, h3, h4, h5, h6, h7, h8⟩

/-! #### The end of VALIDATING -/

/-- R183, item 7: a good image averages over 1, 2, 4 or 8 pitches. -/
theorem imageFailure_none_avg {image : List Byte} (h : imageFailure image = none) :
    byteAt image 12 = 1 ∨ byteAt image 12 = 2 ∨ byteAt image 12 = 4 ∨ byteAt image 12 = 8 := by
  have hf : failedItem image = none := by
    unfold imageFailure at h
    split at h
    · contradiction
    · split at h
      · contradiction
      · simpa using h
  have h7 : itemHolds image 7 = true := by simpa using List.find?_eq_none.1 hf 7 (by decide)
  exact of_decide_eq_true h7

/-- R63: the base pitch of a history that holds one pitch alone. -/
theorem meanPitch_replicate {len n : Nat} (pitch : Nat) (h0 : 0 < n) (hn : n ≤ len) :
    meanPitch (List.replicate len pitch) n = pitch := by
  rw [meanPitch, List.take_replicate, Nat.min_eq_left hn, List.sum_replicate, smul_eq_mul, Nat.mul_div_cancel_left _ h0]

/-- R51, R63, R187: a good image makes its nominal pitch every entry of the history and the base pitch. -/
theorem loadPitch_good {image : List Byte} (h : imageFailure image = none) (b : Bq) :
    loadPitch (imagePitch image) (byteAt image 12) b =
      { b with history := List.replicate 8 (imagePitch image), basePitch := imagePitch image } := by
  have havg := imageFailure_none_avg h
  rw [loadPitch, meanPitch_replicate _ (by omega) (by omega)]

/-- R180, R186, R187: the node with a good image given to settings, store and Body Queue, the load at its end, and
SCHEDULE_BAD told where an object is unusable. -/
def State.withImage (s : State) : State :=
  { s with
    settings := imageSettings s.iml.image, pst := imageStore s.iml.image,
    bq := { s.bq with
      history := List.replicate 8 (imagePitch s.iml.image), basePitch := imagePitch s.iml.image },
    iml := { s.iml with phase := .good, tested := false, length := 0, image := [] },
    rlk := (if unusableCount (imageStore s.iml.image) = 0 then s
      else raise .scheduleBad 0 0 0 (byte (unusableCount (imageStore s.iml.image))) s).rlk }

theorem endGood_given (h : imageFailure s.iml.image = none) : endGood s = enterJoining s.withImage := by
  rw [State.withImage, ← loadPitch_good h]
  refine congrArg enterJoining ?_
  by_cases hu : unusableCount (imageStore s.iml.image) = 0
  · rw [if_pos hu]; exact if_pos hu
  · rw [if_neg hu]; exact if_neg hu

theorem validate_bad (hn : s.zbc.node = .loading) (hp : s.iml.phase = .validating) {reason : LoadReason} {item : Nat}
    (h : imageFailure s.iml.image = some (reason, item)) : validate s = endBad reason item s := by
  rw [validate, if_pos ⟨hn, hp⟩, h]

theorem validate_good (hn : s.zbc.node = .loading) (hp : s.iml.phase = .validating)
    (h : imageFailure s.iml.image = none) : validate s = endGood s := by
  rw [validate, if_pos ⟨hn, hp⟩, h]

/-- Settles O60: the first failure of the image, or that it has none, decides between the two ends of the load. -/
theorem validationEndsTheLoad : Obligations.ValidationEndsTheLoad := by
  refine fun s hn hp => ⟨fun reason item hf => ?bad,
    fun hf => ⟨_, congrArg Host.Outcome.next (validate_good hn hp hf), ?good⟩⟩
  case bad => rw [exec_validationEnd, validate_bad hn hp hf]; rfl
  case good =>
    rw [endGood_given hf]
    have cleared := rowOf_clearRows s.plt
    by_cases hc : s.zbc.chosen = some .claim
    · rw [enterJoining_chosen (s := s.withImage) hc]
      exact ⟨rfl, rfl, rfl, cleared, rfl, rfl, rfl, rfl, rfl, rfl, rfl, rfl, rfl, rfl, rfl, fun hn => absurd hc hn⟩
    · rw [enterJoining_unchosen (s := s.withImage) hc]
      exact ⟨rfl, rfl, rfl, cleared, rfl, rfl, rfl, rfl, rfl, rfl, rfl, rfl, rfl, rfl, rfl, fun _ => ⟨rfl, rfl⟩⟩

end Sys2Proof.Machine

/-! ### Squeeze and acceptance (R90 to R96, R102, R107, R110, R111, R122, R126, R144) -/

namespace Sys2Proof.Machine

variable {s : State}

theorem exec_squeezeEnd (s : State) : exec .squeezeEnd s = .next (onTimer s.squeezeEndLeft fireIfReady s) := rfl
theorem exec_gunClosed (spot : BitVec 16) (s : State) : exec (.gunClosed spot) s = .next (writeA 1 spot.toNat s) := rfl

/-! #### Squeeze end -/

theorem squeezeLeft_inHand {h : SpotInHand} (hh : s.ssq.inHand = some h) : s.squeezeLeft = h.squeezeLeft := by
  simp only [State.squeezeLeft, hh]

/-- R95, R96: the command of a spot whose squeeze has run, the zone not held. -/
theorem exec_squeezeEnd_due {h : SpotInHand} (hs : s.ssq.state = .squeeze) (hh : s.ssq.inHand = some h)
    (hb : s.bq.hold = false) (h0 : h.squeezeLeft = 0) : exec .squeezeEnd s = .next (fireIfReady s) := by
  have hl : s.squeezeEndLeft = some 0 := by
    rw [State.squeezeEndLeft, if_pos ⟨hs, hb⟩, squeezeLeft_inHand hh, h0]
  rw [exec_squeezeEnd, hl]; rfl

/-- R96: without a grant nothing fires. -/
theorem fireIfReady_ungranted (h : s.sru.claim ≠ .granted) : fireIfReady s = s := if_neg fun hc => h hc.2.1

theorem fireIfReady_granted {h : SpotInHand} (hs : s.ssq.state = .squeeze) (hg : s.sru.claim = .granted)
    (hh : s.ssq.inHand = some h) (h0 : h.squeezeLeft = 0) (hb : s.bq.hold = false) :
    fireIfReady s = enterFiring s :=
  if_pos ⟨hs, hg, (squeezeLeft_inHand hh).trans h0, hb⟩

/-- R96, R122: the spot in hand is fired with its schedule and the boost of its grant. -/
theorem enterFiring_granted {h : SpotInHand} {e : PlanEntry} {c : PendingClaim} (hh : s.ssq.inHand = some h)
    (he : s.ssq.plan[h.planIdx]? = some e) (hr : s.sru.record = some c) :
    enterFiring s = enterPrestart e.sched c.boost (s.modSsq fun q => { q with state := .firing }) := by
  simp only [enterFiring, hh, he, hr, Option.map_some, Option.getD_some]

/-- Settles O50: the squeeze has run, so the grant alone decides whether the spot is fired. -/
theorem squeezeEndFiresAGrantedSpot : Obligations.SqueezeEndFiresAGrantedSpot := by
  intro s h e hs hh he hb h0
  rw [exec_squeezeEnd_due hs hh hb h0]
  refine ⟨fun hn => ?ungranted, fun c hg hr => ?granted⟩
  case ungranted => rw [fireIfReady_ungranted hn]
  case granted => rw [fireIfReady_granted hs hg hh h0 hb, enterFiring_granted hh he hr]; rfl

/-! #### Acceptance of a spot -/

/-- R164: GUN-CLOSED is the first motion kind. -/
theorem exec_gunClosed_taken (hl : s.linkTakes) (spot : BitVec 16) :
    exec (.gunClosed spot) s = .next (gunClosed spot.toNat (s.afterDataIn 4)) := by
  rw [exec_gunClosed, writeA_takes _ _ hl]; rfl

theorem planSchedule_entry {i : Nat} {e : PlanEntry} (h : s.ssq.plan[i]? = some e) :
    s.planSchedule i = scheduleOf s.pst e.sched := by
  simp only [State.planSchedule, h]

/-- R92, R95: the node with the spot at plan index `i` accepted, its full squeeze ahead, and its request not raised. -/
def State.withAccepted (s : State) (i : Nat) (e : PlanEntry) : State :=
  { s with
    ssq := { s.ssq with
      state := .squeeze, moveOpen := false,
      inHand := some { planIdx := i, squeezeLeft := (scheduleOf s.pst e.sched).squeeze * 1000, holdLeft := 0,
                       earlyOpen := false, result := none } },
    sru := { s.sru with
      visit := s.sru.visit + 1, waitTimer := none, expiryHeld := false, visitRequested := false } }

/-- R95: a squeeze longer than the claim lead leaves the request to the lead. -/
theorem acceptGun_long {i : Nat} {e : PlanEntry} (he : s.ssq.plan[i]? = some e)
    (hc : s.settings.claimLead < (scheduleOf s.pst e.sched).squeeze) : acceptGun i s = s.withAccepted i e := by
  simp only [acceptGun, planSchedule_entry he]
  refine if_neg ?_
  show ¬(scheduleOf s.pst e.sched).squeeze * 1000 ≤ s.settings.claimLead * 1000
  omega

/-! #### Whom GUN-CLOSED names (R93, R94) -/

theorem gunClosed_main {i spot : Nat} {e : PlanEntry} (hs : s.ssq.state = .awaitGun) (hp : s.ssq.pass = .main)
    (he : s.ssq.plan[i]? = some e) (hid : e.spotId = spot) (hd : (s.ssq.plan.map PlanEntry.spotId).Nodup) :
    gunClosed spot s = gunClosedMain i e spot s := by
  simp only [gunClosed, hs, ne_eq, not_true_eq_false, if_false, findIdx_spotId he hid hd, he, hp]

theorem gunClosed_revisit {i spot : Nat} {e : PlanEntry} (hs : s.ssq.state = .awaitGun) (hp : s.ssq.pass = .revisit)
    (he : s.ssq.plan[i]? = some e) (hid : e.spotId = spot) (hd : (s.ssq.plan.map PlanEntry.spotId).Nodup) :
    gunClosed spot s = if s.ssq.deferred.head? = some i then acceptGun i s else refuseGun spot s := by
  simp only [gunClosed, hs, ne_eq, not_true_eq_false, if_false, findIdx_spotId he hid hd, he, hp]

/-- R94: outside AWAIT_GUN, or with a spot id of no plan entry, GUN-CLOSED is a mismatch. -/
theorem gunClosed_refused {spot : Nat} (h : s.ssq.state ≠ .awaitGun ∨ ∀ e ∈ s.ssq.plan, e.spotId ≠ spot) :
    gunClosed spot s = refuseGun spot s := by
  by_cases hs : s.ssq.state = .awaitGun
  · have hn : s.ssq.plan.findIdx? (fun e => decide (e.spotId = spot)) = none := by
      simpa using h.resolve_left (not_not_intro hs)
    simp only [gunClosed, hs, ne_eq, not_true_eq_false, if_false, hn]
  · exact if_pos hs

theorem gunClosedMain_expected {i : Nat} (h : i = s.ssq.cursor) (e : PlanEntry) (spot : Nat) :
    gunClosedMain i e spot s = acceptGun i (if s.ssq.moveOpen then s.modSsq (learnSample e.recIdx) else s) := if_pos h

theorem gunClosedMain_ahead {i : Nat} {e : PlanEntry} (h : s.ssq.cursor < i) (ho : e.outcome = .pending) (spot : Nat) :
    gunClosedMain i e spot s = skipAhead i s := by
  rw [gunClosedMain, if_neg h.ne', if_pos ⟨h, ho⟩]

theorem gunClosedMain_refused {i : Nat} {e : PlanEntry}
    (h : i < s.ssq.cursor ∨ (s.ssq.cursor < i ∧ e.outcome ≠ .pending)) (spot : Nat) :
    gunClosedMain i e spot s = refuseGun spot s := by
  have hne : i ≠ s.ssq.cursor := by omega
  have hna : ¬(s.ssq.cursor < i ∧ e.outcome = .pending) := by
    rintro ⟨hlt, ho⟩
    exact h.elim (fun hb => by omega) fun hn => hn.2 ho
  rw [gunClosedMain, if_neg hne, if_neg hna]

/-! #### The skip ahead (R90, R93) -/

/-- R93, R102: the SPOT-DONE of a skipped entry of MAIN. -/
def skipReport (b : ActiveBody) (x : PlanEntry) : Report :=
  .spotDone b.serial b.zoneSeq x.spotId .main .missed .skipped withoutCurrent false

/-- R93, R171: the robot link once the SPOT-DONE of skipped entries are queued, in their order. -/
def tellSkipped (b : ActiveBody) (skipped : List PlanEntry) (k : Rlk) : Rlk :=
  skipped.foldl (fun k x => queueReport (skipReport b x) k) k

/-- R93: the plan with the entries from `c` up to `i` MISSED SKIPPED. -/
def markSkipped (c i : Nat) (plan : List PlanEntry) : List PlanEntry :=
  plan.mapIdx fun k x => if c ≤ k ∧ k < i then { x with outcome := .missed, cause := .skipped } else x

/-- Reports told one after the other change the robot link alone. -/
theorem foldl_generate_skipped (b : ActiveBody) (skipped : List PlanEntry) :
    skipped.foldl (fun u x => generate (skipReport b x) u) s = { s with rlk := tellSkipped b skipped s.rlk } := by
  induction skipped generalizing s with
  | nil => rfl
  | cons x xs ih => rw [List.foldl_cons, ih]; rfl

theorem markSkipped_empty (c : Nat) (plan : List PlanEntry) : markSkipped c c plan = plan := by
  refine List.ext_getElem? fun k => ?_
  have hk : ¬(c ≤ k ∧ k < c) := by omega
  simp [markSkipped, hk]

/-- R93: the entries from `i` on are not skipped. -/
theorem markSkipped_beyond {c i j : Nat} {plan : List PlanEntry} {e : PlanEntry} (hj : i ≤ j)
    (h : plan[j]? = some e) : (markSkipped c i plan)[j]? = some e := by
  have hn : ¬(c ≤ j ∧ j < i) := by omega
  simp [markSkipped, h, hn]

/-- R93: the first entry skipped, then those behind it. -/
theorem markSkipped_modify {c i : Nat} (h : c < i) (plan : List PlanEntry) :
    markSkipped (c + 1) i (plan.modify c fun x => { x with outcome := .missed, cause := .skipped }) =
      markSkipped c i plan := by
  refine List.ext_getElem? fun k => ?_
  simp only [markSkipped, List.getElem?_mapIdx, List.getElem?_modify]
  rcases eq_or_ne c k with rfl | hk
  · cases plan[c]? <;> simp [h]
  · have hiff : c + 1 ≤ k ↔ c ≤ k := by omega
    cases plan[k]? <;> simp only [hiff, if_neg hk, Option.map_eq_map, Option.map_some, Option.map_none]

theorem setOutcome_entry {q : Ssq} {i : Nat} {e : PlanEntry} (h : q.plan[i]? = some e) (o : Outcome) (c : Cause) :
    setOutcome i o c q = { q with plan := q.plan.set i { e with outcome := o, cause := c } } := by
  rw [setOutcome, List.modify_eq_set_getElem?, h]; rfl

/-- R85, R102: the entry at the cursor of MAIN is MISSED, and told so. -/
theorem reportSpot_missed {e : PlanEntry} {b : ActiveBody} (he : s.ssq.plan[s.ssq.cursor]? = some e)
    (hb : s.ssq.active = some b) (hp : s.ssq.pass = .main) (c : Cause) :
    reportSpot s.ssq.cursor noCurrentResult false (s.modSsq (setOutcome s.ssq.cursor .missed c)) =
      { generate (.spotDone b.serial b.zoneSeq e.spotId .main .missed c withoutCurrent false) s with
        ssq := setOutcome s.ssq.cursor .missed c s.ssq } := by
  have entry : (s.modSsq (setOutcome s.ssq.cursor .missed c)).ssq.plan[s.ssq.cursor]? =
      some { e with outcome := .missed, cause := c } := by
    simp [setOutcome, he]
  have pass : (s.modSsq (setOutcome s.ssq.cursor .missed c)).ssq.pass = .main := hp
  rw [reportSpot_entry entry (by exact hb), pass]; rfl

/-- R93: `n` entries from the cursor on are skipped. -/
theorem skipEntries_run {b : ActiveBody} (n : Nat) (hb : s.ssq.active = some b) (hp : s.ssq.pass = .main)
    (hn : s.ssq.cursor + n ≤ s.ssq.plan.length) : skipEntries n s = { s with
      rlk := tellSkipped b ((s.ssq.plan.drop s.ssq.cursor).take n) s.rlk,
      ssq := { s.ssq with
        cursor := s.ssq.cursor + n, plan := markSkipped s.ssq.cursor (s.ssq.cursor + n) s.ssq.plan } } := by
  induction n generalizing s with
  | zero => simp only [skipEntries, Nat.add_zero, markSkipped_empty, List.take_zero]; rfl
  | succ n ih =>
    have hlt : s.ssq.cursor < s.ssq.plan.length := by omega
    have hsum : s.ssq.cursor + (n + 1) = s.ssq.cursor + 1 + n := by omega
    have he : s.ssq.plan[s.ssq.cursor]? = some s.ssq.plan[s.ssq.cursor] := List.getElem?_eq_getElem hlt
    rw [skipEntries, reportSpot_missed he hb hp,
      ih (by exact hb) (by exact hp) (by simp only [State.modSsq_ssq, setOutcome, List.length_modify]; omega)]
    simp only [State.modSsq_ssq, setOutcome, List.drop_modify_of_lt _ _ _ _ (Nat.lt_succ_self _),
      markSkipped_modify (show s.ssq.cursor < s.ssq.cursor + 1 + n by omega), List.drop_eq_getElem_cons hlt,
      List.take_succ_cons, hsum]
    rfl

/-- R90: the entry at the cursor of MAIN, of an UNUSABLE schedule, is MISSED BAD_SCHEDULE. -/
theorem missBadSchedule_entry {e : PlanEntry} {b : ActiveBody} (he : s.ssq.plan[s.ssq.cursor]? = some e)
    (hb : s.ssq.active = some b) (hp : s.ssq.pass = .main) : missBadSchedule s =
      { generate (.spotDone b.serial b.zoneSeq e.spotId .main .missed .badSchedule withoutCurrent false) s with
        ssq := { s.ssq with
          cursor := s.ssq.cursor + 1, moveTimer := 0, moveOpen := true, late := false,
          plan := s.ssq.plan.set s.ssq.cursor { e with outcome := .missed, cause := .badSchedule } } } := by
  rw [missBadSchedule, reportSpot_missed he hb hp, setOutcome_entry he]; rfl

/-- R93: the node that has skipped from the cursor of MAIN to plan index `i`. -/
def State.withSkipped (s : State) (b : ActiveBody) (i : Nat) : State :=
  { s with
    rlk := tellSkipped b ((s.ssq.plan.drop s.ssq.cursor).take (i - s.ssq.cursor)) s.rlk,
    ssq := { s.ssq with cursor := i, plan := markSkipped s.ssq.cursor i s.ssq.plan } }

theorem skipEntries_to {b : ActiveBody} {i : Nat} (hb : s.ssq.active = some b) (hp : s.ssq.pass = .main)
    (hc : s.ssq.cursor ≤ i) (hi : i ≤ s.ssq.plan.length) :
    skipEntries (i - s.ssq.cursor) s = s.withSkipped b i := by
  have hsum : s.ssq.cursor + (i - s.ssq.cursor) = i := by omega
  rw [skipEntries_run _ hb hp (by omega), hsum]; rfl

/-- R93: the named spot is accepted where its schedule is USABLE, and else resolved and passed. -/
theorem skipAhead_named {b : ActiveBody} {i : Nat} {e : PlanEntry} (hb : s.ssq.active = some b)
    (hp : s.ssq.pass = .main) (hc : s.ssq.cursor < i) (he : s.ssq.plan[i]? = some e) :
    skipAhead i s = if (scheduleOf s.pst e.sched).mark = .usable then acceptGun i (s.withSkipped b i)
      else stepPlan (missBadSchedule (s.withSkipped b i)) := by
  obtain ⟨hi, -⟩ := List.getElem?_eq_some_iff.1 he
  have hn : (s.withSkipped b i).ssq.plan[i]? = some e := markSkipped_beyond le_rfl he
  simp only [skipAhead, skipEntries_to hb hp hc.le hi.le, planSchedule_entry hn]; rfl

theorem awaitGun_awaiting (h : s.ssq.state = .awaitGun) : awaitGun s = s := by
  rw [awaitGun, State.modSsq, ← h]

/-- R90, R93: the spot at the cursor cannot be welded, and the one behind it is awaited. -/
theorem stepPlan_missBadSchedule {next : PlanEntry} (hs : s.ssq.state = .awaitGun)
    (hn : s.ssq.plan[s.ssq.cursor + 1]? = some next) (hu : (scheduleOf s.pst next.sched).mark = .usable) :
    stepPlan (missBadSchedule s) = missBadSchedule s := by
  obtain ⟨_, _, _, hm⟩ := missBadSchedule_changes (s := s)
  have hpst : (missBadSchedule s).pst = s.pst := by rw [hm]
  have behind : (missBadSchedule s).ssq.plan[(missBadSchedule s).ssq.cursor]? = some next := by
    rw [missBadSchedule_ssq]; simpa [openMove, setOutcome] using hn
  rw [stepPlan_usable behind (by rw [hpst]; exact hu), awaitGun_awaiting (by rw [missBadSchedule_ssq]; exact hs)]

/-- Settles O25: where the spot id stands in the plan, and the pass, decide what GUN-CLOSED does. -/
theorem gunClosedStartsTheSqueezeOrMismatches : Obligations.GunClosedStartsTheSqueezeOrMismatches := by
  intro s spot hl visit taken mismatch
  have closed : ∀ {t : State}, gunClosed spot.toNat (s.afterDataIn 4) = t → exec (.gunClosed spot) s = .next t := by
    rintro _ rfl
    exact exec_gunClosed_taken hl spot
  refine ⟨fun i e hs he hid hd => ?_, fun h => closed (gunClosed_refused (s := s.afterDataIn 4) h)⟩
  have inMain := fun hp => gunClosed_main (s := s.afterDataIn 4) hs hp he hid hd
  have inRevisit := fun hp => gunClosed_revisit (s := s.afterDataIn 4) hs hp he hid hd
  refine ⟨fun hp hi ho hc => ?learned, fun hp hi ho hc => ?expected, fun rest hp hdef hc => ?head,
    fun b hp hi ho hb => ?ahead, fun hp h => closed ?notPending, fun hp h => closed ?notHead⟩
  case learned =>
    refine ⟨(learnSample e.recIdx s.ssq).learned, closed ?_, ?_, fun k hk => ?_⟩
    · rw [inMain hp, gunClosedMain_expected (s := s.afterDataIn 4) hi, if_pos (by exact ho)]
      exact acceptGun_long (s := (s.afterDataIn 4).modSsq (learnSample e.recIdx)) he hc
    · exact (setSparse_getD _ _ _ _).trans (if_pos rfl)
    · exact (setSparse_getD _ _ _ _).trans (if_neg hk)
  case expected =>
    refine closed ?_
    rw [inMain hp, gunClosedMain_expected (s := s.afterDataIn 4) hi, if_neg (by simp [State.afterDataIn, ho]),
      acceptGun_long (s := s.afterDataIn 4) he hc]
    simp only [State.withAccepted, ho]; rfl
  case head =>
    refine closed ?_
    rw [inRevisit hp, if_pos (by simp [State.afterDataIn, hdef])]
    exact acceptGun_long (s := s.afterDataIn 4) he hc
  case ahead =>
    intro skipped told
    have htold : told = { s.afterDataIn 4 with
        rlk := tellSkipped b ((s.ssq.plan.drop s.ssq.cursor).take (i - s.ssq.cursor)) (s.afterDataIn 4).rlk } :=
      foldl_generate_skipped b _
    have named : ((s.afterDataIn 4).withSkipped b i).ssq.plan[i]? = some e := markSkipped_beyond le_rfl he
    have skips := (inMain hp).trans ((gunClosedMain_ahead (s := s.afterDataIn 4) hi ho _).trans
      (skipAhead_named hb hp hi he))
    rw [htold]
    refine ⟨fun hu hc => closed (skips.trans ?usable), fun next hu hn hnu => closed (skips.trans ?unusable)⟩
    case usable =>
      rw [if_pos (by exact hu)]
      exact acceptGun_long (s := (s.afterDataIn 4).withSkipped b i) named hc
    case unusable =>
      have behind : ((s.afterDataIn 4).withSkipped b i).ssq.plan[i + 1]? = some next :=
        markSkipped_beyond (by omega) hn
      rw [if_neg (by exact hu), stepPlan_missBadSchedule (s := (s.afterDataIn 4).withSkipped b i) hs behind hnu,
        missBadSchedule_entry (s := (s.afterDataIn 4).withSkipped b i) named hb hp]
      rfl
  case notPending => rw [inMain hp]; exact gunClosedMain_refused (s := s.afterDataIn 4) h _
  case notHead => rw [inRevisit hp, if_neg (by exact h)]; rfl

end Sys2Proof.Machine

/-! ### Inside a pulse and at its end (R127, R129, R131 to R137, R145, R150, R152 to R158, R191) -/

namespace Sys2Proof.Machine

variable {s : State}

/-! #### The LINEAR upslope (R129) -/

/-- R123, R124: of the rest of the node the count of a spot can change W and the reports alone. -/
theorem countSpot_changes (hc : s.sru.claim ≠ .waiting) :
    ∃ k w, countSpot s = { s with rlk := k, cpg := { s.cpg with w := w } } := by
  have counted : ∀ w, setWeldCount w s = s.modCpg fun c => { c with w := w } := fun w => if_neg fun h => hc h.2
  simp only [countSpot, counted]
  split <;> exact ⟨_, _, rfl⟩

/-- R129, R130: the first update of UPSLOPE. -/
theorem upslopeUpdate_first {c : Schedule} (hc : s.cpgSchedule = c) (h0 : s.cpg.count = 0) (hu : 1 ≤ c.upslope) :
    upslopeUpdate s = sendSetpoint (upslopeSetpoint c.shape s.cpg.g (2 * c.upslope) 1 s.cpg.setpoint) s := by
  simp only [upslopeUpdate, hc, h0]
  exact if_pos (Nat.mul_pos (by decide) hu)

/-- R127: the update at which a current with an upslope begins carries its first setpoint, whatever W stands at. -/
theorem beginCurrent_upslope {sp : CpgSpot} {c : Schedule} (hc : s.sru.claim ≠ .waiting) (hs : s.cpg.spot = some sp)
    (hsch : scheduleOf s.pst sp.sched = c) (hu : 1 ≤ c.upslope) :
    ∃ k w, beginCurrent s = sendSetpoint (upslopeSetpoint c.shape s.cpg.g (2 * c.upslope) 1 s.cpg.setpoint)
      { s with rlk := k, cpg := { s.cpg with w := w, begun := true, phase := .upslope, count := 0 } } := by
  obtain ⟨k, w, counted⟩ := countSpot_changes hc
  rw [beginCurrent, counted]
  exact ⟨k, w, upslopeUpdate_first (s := { s with
    rlk := k, cpg := { s.cpg with w := w, begun := true, phase := .upslope, count := 0 } })
    ((cpgSchedule_spot hs).trans hsch) rfl hu⟩

/-- The floor of a multiple rises by the floor of one part, or by one more. -/
theorem mul_succ_div_step (g k : Nat) {n : Nat} (hn : 0 < n) :
    g * (k + 1) / n = g * k / n + g / n ∨ g * (k + 1) / n = g * k / n + g / n + 1 := by
  rw [Nat.mul_succ, Nat.add_div hn]
  split
  · exact .inr rfl
  · exact .inl rfl

/-- Settles O57: `upslopeSetpoint_linear` up to the last update, which is G by either formula. -/
theorem linearUpslopeRisesEvenlyToG : Obligations.LinearUpslopeRisesEvenlyToG := by
  intro s sp r hs hshape hu c n g
  have hc : s.cpgSchedule = c := cpgSchedule_spot hs
  have hn : 0 < n := Nat.mul_pos (by decide) hu
  refine ⟨fun hd hr hready hg hb => ?begins, fun hd hk => ?rises, fun hd hk => ?ends,
    fun k _ => mul_succ_div_step g k hn, fun k hk => Nat.div_eq_of_lt hk, Nat.mul_div_cancel g hn⟩
  case begins =>
    have due := exec_stageUpdate_prestart hd
    have hready' : stageReady s.withAnswerCounted.sgl = true := hready
    rw [prestartUpdate_budget (s := s.withAnswerCounted) hs hr] at due
    rw [if_neg (by exact Nat.not_lt.2 hb), if_pos hready'] at due
    obtain ⟨k, w, begun⟩ := beginCurrent_upslope (s := s.withAnswerCounted) (by exact hg ▸ nofun) hs rfl hu
    rw [begun] at due
    exact ⟨_, due, rfl, rfl, rfl, upslopeSetpoint_linear hshape (by show 1 ≠ 2 * _; omega) _ _⟩
  case rises =>
    rw [exec_stageUpdate_upslope hd, upslopeUpdate_running (by rwa [hc]), hc]
    rcases eq_or_ne (s.cpg.count + 1) n with hlast | hlast
    · rw [upslopeSetpoint_last hlast, hlast, Nat.mul_div_cancel _ hn]
    · rw [upslopeSetpoint_linear hshape hlast]
  case ends =>
    exact ⟨_, by rw [exec_stageUpdate_upslope hd, upslopeUpdate_over (by rwa [hc])], rfl, rfl⟩

/-! #### Updates of PULSE and the sample frames that answer them -/

theorem exec_stageUpdate_pulse (h : s.updateDue .pulse) :
    exec .stageUpdate s = .next (pulseUpdate s.withAnswerCounted) := by
  rw [exec_stageUpdate_due h]; simp only [profileUpdate, updateDue_phase h]

/-- R131, R153: inside a pulse an update carries G as the next position. -/
theorem pulseUpdate_running (h : s.cpg.count < 2 * s.cpgSchedule.pulse) : pulseUpdate s.withAnswerCounted =
    { s.withSetpoint s.cpg.g with wmn := { s.wmn with pos := s.wmn.pos + 1 } } := if_pos h

theorem pulseUpdate_over (h : 2 * s.cpgSchedule.pulse ≤ s.cpg.count) :
    pulseUpdate s.withAnswerCounted = pulseEnd s.withAnswerCounted := if_neg (Nat.not_lt.2 h)

theorem exec_sampleFrame (bytes : List Byte) (s : State) :
    exec (.sampleFrame bytes) s = .next (receiveSample bytes s) := rfl

/-- R191: the sample frame of a number byte, a status and current word, a voltage word, and their check. -/
def sampleBytes (b0 b1 b2 b3 b4 : Byte) : List Byte := [b0, b1, b2, b3, b4, ~~~(b0 ^^^ b1 ^^^ b2 ^^^ b3 ^^^ b4)]

theorem checkByte_five (b0 b1 b2 b3 b4 : Byte) :
    checkByte [b0, b1, b2, b3, b4] = ~~~(b0 ^^^ b1 ^^^ b2 ^^^ b3 ^^^ b4) := by
  simp [checkByte]

/-- R145, R191: the bytes that are accepted as the answer to the latest update. -/
theorem sampleAccepted_iff (g : Sgl) (bytes : List Byte) : sampleAccepted g bytes = true ↔
    g.link = .active ∧ g.answered = false ∧ ∃ b0 b1 b2 b3 b4 : Byte,
      bytes = sampleBytes b0 b1 b2 b3 b4 ∧ b0.toNat = (g.nextNum + 255) % 256 := by
  simp only [sampleAccepted, decide_eq_true_eq]
  constructor
  · rintro ⟨hl, hlen, hcheck, hnum, ha⟩
    match bytes, hlen with
    | [b0, b1, b2, b3, b4, b5], _ =>
      have hb5 : b5 = ~~~(b0 ^^^ b1 ^^^ b2 ^^^ b3 ^^^ b4) := hcheck.trans (checkByte_five ..)
      exact ⟨hl, ha, b0, b1, b2, b3, b4, by rw [sampleBytes, hb5], hnum⟩
  · rintro ⟨hl, ha, b0, b1, b2, b3, b4, rfl, hnum⟩
    exact ⟨hl, rfl, (checkByte_five ..).symm, hnum, ha⟩

/-- R145, R153: the node with the latest update answered by an accepted frame and its samples taken. -/
def State.withAnswer (s : State) (bytes : List Byte) : State :=
  { s with
    sgl := acceptAnswer (sampleStatus bytes) s.sgl,
    wmn := if s.cpg.phase = .pulse then takeSample (sampleCurrent bytes) (sampleVoltage bytes) s.wmn else s.wmn }

/-- R145, R150: an accepted frame answers, and with a fault flag orders an abort. -/
theorem receiveSample_accepted {bytes : List Byte} (h : sampleAccepted s.sgl bytes = true) : receiveSample bytes s =
    if stageFault (sampleStatus bytes) then orderAbort .stage (s.withAnswer bytes) else s.withAnswer bytes := by
  have answered : (if s.cpg.phase = .pulse then
      (s.modSgl (acceptAnswer (sampleStatus bytes))).modWmn (takeSample (sampleCurrent bytes) (sampleVoltage bytes))
      else s.modSgl (acceptAnswer (sampleStatus bytes))) = s.withAnswer bytes := by
    unfold State.withAnswer; split <;> rfl
  rw [receiveSample, if_pos h]
  dsimp only
  rw [answered]

theorem receiveSample_refused {bytes : List Byte} (h : sampleAccepted s.sgl bytes = false) :
    receiveSample bytes s = s := if_neg (by simp [h])

/-- R153, R156: what a cut pulse discards does not depend on its last sample. -/
theorem cutPulse_takeSample (i v : Nat) (m : Wmn) : cutPulse (takeSample i v m) = cutPulse m := by
  unfold takeSample; split <;> rfl

theorem wmnCut_cutPulse : s.wmnCut = if s.cpg.phase = .pulse then cutPulse s.wmn else s.wmn := rfl

theorem wmnCut_withAnswer (bytes : List Byte) : (s.withAnswer bytes).wmnCut = s.wmnCut := by
  simp only [wmnCut_cutPulse, State.withAnswer]
  split
  · exact cutPulse_takeSample ..
  · rfl

/-- R136, R150, R156: a fault flag in current takes the abort STAGE. -/
theorem orderAbort_withAnswer (hc : s.inCurrent) (bytes : List Byte) : orderAbort .stage (s.withAnswer bytes) =
    { s with
      sgl := acceptAnswer (sampleStatus bytes) s.sgl, wmn := s.wmnCut,
      cpg := s.cpgAborting .stage s.settings.abortPath } := by
  rw [orderAbort, takeAbort_inCurrent (s := s.withAnswer bytes) hc, wmnCut_withAnswer]; rfl

theorem stageFault_sampleStatus (b0 b1 b2 b3 b4 : Byte) : stageFault (sampleStatus (sampleBytes b0 b1 b2 b3 b4)) =
    (b1.getLsbD 6 || b1.getLsbD 5) := rfl

/-- Settles O53: `sampleAccepted_iff` splits the bytes; flags and phase decide what an accepted frame does. -/
theorem pulseUpdateAndItsSample : Obligations.PulseUpdateAndItsSample := by
  intro s
  refine ⟨fun sp hd hs hn => ?update, fun bytes hno => ?refused, fun b0 b1 b2 b3 b4 hl ha hnum => ?accepted⟩
  case update =>
    rw [exec_stageUpdate_pulse hd, pulseUpdate_running (by rwa [cpgSchedule_spot hs])]
  case refused =>
    have hf : sampleAccepted s.sgl bytes = false := by
      rw [Bool.eq_false_iff, Ne, sampleAccepted_iff]; exact hno
    rw [exec_sampleFrame, receiveSample_refused hf]
  case accepted =>
    intro bytes status answered sampled
    have taken := receiveSample_accepted ((sampleAccepted_iff s.sgl bytes).2 ⟨hl, ha, b0, b1, b2, b3, b4, rfl, hnum⟩)
    have flags : stageFault (sampleStatus bytes) = (b1.getLsbD 6 || b1.getLsbD 5) := stageFault_sampleStatus ..
    have outside : s.cpg.phase ≠ .pulse → s.withAnswer bytes = answered := fun hp => by
      rw [State.withAnswer, if_neg hp]; rfl
    rw [exec_sampleFrame, taken, flags]
    refine ⟨fun hf hc => ?_, fun hp h6 h5 => ?_, fun hp hf => ?_⟩
    · rw [if_pos (by simpa using hf), orderAbort_withAnswer hc]; rfl
    · rw [h6, h5, State.withAnswer, if_pos hp]; rfl
    · rcases hf with ⟨h6, h5⟩ | hc
      · rw [h6, h5, outside hp]; rfl
      · have unabortable : orderAbort .stage (s.withAnswer bytes) = s.withAnswer bytes :=
          takeAbort_outside (s := s.withAnswer bytes) hc _ _
        rw [unabortable, ite_self, outside hp]

/-! #### The worst of the counted results (R157) -/

theorem severity_moreSevere (a b : Worst) :
    severity a ≤ severity (moreSevere a b) ∧ severity b ≤ severity (moreSevere a b) := by
  unfold moreSevere; split
  · rename_i h; exact ⟨h.le, le_rfl⟩
  · rename_i h; exact ⟨le_rfl, Nat.not_lt.1 h⟩

theorem moreSevere_eq_or (a b : Worst) : moreSevere a b = a ∨ moreSevere a b = b := by
  unfold moreSevere; split
  · exact .inr rfl
  · exact .inl rfl

/-- The most severe of some results is at least as severe as each. -/
theorem severity_le_foldl (f : Nat → Worst) (l : List Nat) (w : Worst) :
    severity w ≤ severity (l.foldl (fun w i => moreSevere w (f i)) w) ∧
    ∀ i ∈ l, severity (f i) ≤ severity (l.foldl (fun w i => moreSevere w (f i)) w) := by
  induction l generalizing w with
  | nil => exact ⟨le_rfl, nofun⟩
  | cons i l ih =>
    obtain ⟨hw, hl⟩ := ih (moreSevere w (f i))
    obtain ⟨ha, hb⟩ := severity_moreSevere w (f i)
    exact ⟨ha.trans hw, List.forall_mem_cons.2 ⟨hb.trans hw, hl⟩⟩

/-- The most severe of some results is one of them. -/
theorem foldl_moreSevere_eq_or (f : Nat → Worst) (l : List Nat) (w : Worst) :
    l.foldl (fun w i => moreSevere w (f i)) w = w ∨ ∃ i, l.foldl (fun w i => moreSevere w (f i)) w = f i := by
  induction l generalizing w with
  | nil => exact .inl rfl
  | cons i l ih =>
    rcases ih (moreSevere w (f i)) with h | h
    · rcases moreSevere_eq_or w (f i) with h' | h'
      · exact .inl (h.trans h')
      · exact .inr ⟨i, h.trans h'⟩
    · exact .inr h

/-- R157: pulse `i` + 1 is judged `x`, and no extension pulse judged after it takes its place. -/
def ResultCounts (pulses : Nat) (results : List PulseResult) (i : Nat) (x : Worst) : Prop :=
  results[i]? = some (.judged x) ∧ ¬(i + 1 = pulses ∧ ∃ y, results[pulses]? = some (.judged y))

theorem getD_judged {results : List PulseResult} {i : Nat} {x : Worst} :
    results.getD i .noResult = .judged x ↔ results[i]? = some (.judged x) := by
  rw [List.getD_eq_getElem?_getD]
  cases results[i]? <;> simp

theorem extensionJudged_iff (pulses : Nat) (results : List PulseResult) :
    extensionJudged pulses results = true ↔ ∃ y, results[pulses]? = some (.judged y) := by
  simp only [← getD_judged, extensionJudged]
  cases results.getD pulses .noResult <;> simp

theorem countedResult_of_counts {pulses : Nat} {results : List PulseResult} {i : Nat} {x : Worst}
    (h : ResultCounts pulses results i x) : countedResult pulses results (i + 1) = x := by
  obtain ⟨hx, hn⟩ := h
  rw [← extensionJudged_iff] at hn
  simp only [countedResult, Nat.add_sub_cancel, getD_judged.2 hx, if_neg hn]

/-- R157: what counts for OK without being a result is no worse than OK. -/
theorem countedResult_ok_or_counts (pulses : Nat) (results : List PulseResult) (i : Nat) :
    countedResult pulses results (i + 1) = .ok ∨
    ResultCounts pulses results i (countedResult pulses results (i + 1)) := by
  cases hx : results.getD i .noResult with
  | noResult => left; simp only [countedResult, Nat.add_sub_cancel, hx]
  | cut => left; simp only [countedResult, Nat.add_sub_cancel, hx]
  | judged x =>
    by_cases hn : i + 1 = pulses ∧ extensionJudged pulses results = true
    · left; simp only [countedResult, Nat.add_sub_cancel, hx, if_pos hn]
    · right
      have counts : ResultCounts pulses results i x := by
        refine ⟨getD_judged.1 hx, ?_⟩
        rwa [← extensionJudged_iff]
      rwa [countedResult_of_counts counts]

theorem worstOf_ok_or_counts (pulses : Nat) (results : List PulseResult) :
    worstOf pulses results = .ok ∨ ∃ i, ResultCounts pulses results i (worstOf pulses results) := by
  rcases foldl_moreSevere_eq_or (fun i => countedResult pulses results (i + 1)) (List.range 9) .ok with h | ⟨i, h⟩
  · exact .inl h
  · rw [worstOf, h]
    exact (countedResult_ok_or_counts pulses results i).imp id fun hc => ⟨i, hc⟩

theorem severity_le_worstOf {pulses : Nat} {results : List PulseResult} (hl : results.length = 9) {i : Nat} {x : Worst}
    (h : ResultCounts pulses results i x) : severity x ≤ severity (worstOf pulses results) := by
  obtain ⟨hi, -⟩ := List.getElem?_eq_some_iff.1 h.1
  obtain ⟨-, hall⟩ := severity_le_foldl (fun i => countedResult pulses results (i + 1)) (List.range 9) .ok
  have hx := hall i (List.mem_range.2 (hl ▸ hi))
  rwa [countedResult_of_counts h] at hx

/-! #### The judgement (R154, R158) -/

theorem meanCurrent_judged {m : Wmn} (h : 0 < m.judged) : meanCurrent m = m.iSum / m.judged := if_neg h.ne'

theorem meanVoltage_judged {m : Wmn} (h : 0 < m.judged) : meanVoltage m = m.vSum / m.judged := if_neg h.ne'

theorem pulseJudgement_unjudged {m : Wmn} (h : m.judged = 0) : pulseJudgement m = .none := if_pos h

/-- R158: a mean of 0, that of a pulse without judged samples too, has no resistance. -/
theorem pulseResistance_zero {m : Wmn} (h : meanCurrent m = 0) : pulseResistance m = 65535 := if_pos h

/-- R154: the chain of thresholds that a judged pulse is held to. -/
theorem pulseJudgement_judged {m : Wmn} (h : 0 < m.judged) : pulseJudgement m =
    if m.iSum / m.judged < m.noneBelow then .none
    else if m.iSum / m.judged < m.lowBelow then .low
    else if m.highAbove < m.iSum / m.judged then .high
    else .ok := by
  rw [pulseJudgement, if_neg h.ne', meanCurrent_judged h]

theorem pulseResistance_judged {m : Wmn} (h : 0 < m.judged) (hi : 0 < m.iSum / m.judged) :
    pulseResistance m = min 65535 (1000 * (m.vSum / m.judged) / (m.iSum / m.judged)) := by
  rw [pulseResistance, meanCurrent_judged h, meanVoltage_judged h, if_neg hi.ne']

/-! #### The update at which a pulse ends (R131 to R137, R155) -/

theorem resultAbort_of_cause {action : Nat} {r : Worst} {cause : Cause} (ha : action = 1)
    (h : (r = .high ∧ cause = .high) ∨ (r = .none ∧ cause = .noCurrent)) : resultAbort action r = some cause := by
  subst ha
  rcases h with ⟨rfl, rfl⟩ | ⟨rfl, rfl⟩ <;> rfl

theorem resultAbort_of_goesOn {action : Nat} {r : Worst} (h : action ≠ 1 ∨ r = .ok ∨ r = .low) :
    resultAbort action r = none := by
  unfold resultAbort; split
  · rename_i ha
    rcases h.resolve_left (not_not_intro ha) with rfl | rfl <;> rfl
  · rfl

/-- R136, R155: the node with the pulse that has ended judged and an abort taken. -/
def State.withResultAbort (s : State) (cause : Cause) (path : AbortPath) : State :=
  { judge s with cpg := s.cpgAborting cause path }

/-- R137, R155: a result under the ABORT action makes this update the first of the abort path. -/
theorem pulseEnd_aborts {cause : Cause}
    (h : resultAbort s.cpgSchedule.action (pulseJudgement s.wmn) = some cause) :
    pulseEnd s.withAnswerCounted = abortUpdate (s.withResultAbort cause s.settings.abortPath).withAnswerCounted := by
  have h' : resultAbort s.withAnswerCounted.cpgSchedule.action (pulseJudgement s.withAnswerCounted.wmn) =
    some cause := h
  simp only [pulseEnd, h']; rfl

theorem pulseEnd_goesOn (h : resultAbort s.cpgSchedule.action (pulseJudgement s.wmn) = none) :
    pulseEnd s.withAnswerCounted = afterPulse (pulseJudgement s.wmn) (judge s).withAnswerCounted := by
  have h' : resultAbort s.withAnswerCounted.cpgSchedule.action (pulseJudgement s.withAnswerCounted.wmn) = none := h
  simp only [pulseEnd, h']; rfl

/-- R138: the first update of the RAMP path. -/
theorem abortUpdate_resultAbort_ramp (hl : s.cpg.slotLost = false) (cause : Cause) :
    abortUpdate (s.withResultAbort cause .ramp).withAnswerCounted =
      (s.withResultAbort cause .ramp).withSetpoint (s.cpg.setpoint - s.cpg.setpoint / 8) := by
  have ramp := abortUpdate_ramp (s := s.withResultAbort cause .ramp) rfl rfl hl (by show 0 < 7; decide)
  have first : s.cpg.setpoint * (0 + 1) / 8 = s.cpg.setpoint / 8 := by rw [Nat.zero_add, Nat.mul_one]
  exact ramp.trans (congrArg (fun d => State.withSetpoint _ (s.cpg.setpoint - d)) first)

/-- R137, R140: the CUT path ends the current with its first update, and the spot is ABORTED with the cause. -/
theorem abortUpdate_cut {a : AbortRecord} (ha : s.cpg.abort = some a) (hp : a.path = .cut) (hl : s.sgl.link ≠ .fault)
    {t : State} (ht : t = abortUpdate s.withAnswerCounted) :
    t.wmn = s.wmn ∧ t.cpg.phase = .off ∧ t.cpg.setpoint = 0 ∧ t.sgl.lastFrame = setpointFrame s.sgl.nextNum 0 ∧
    t.sgl.link = .idle ∧
    ∀ h e, s.ssq.inHand = some h → h.earlyOpen = false → s.ssq.plan[h.planIdx]? = some e →
      0 < (scheduleOf s.pst e.sched).hold →
      t.ssq.plan[h.planIdx]? = some { e with outcome := .aborted, cause := a.cause } := by
  rw [abortUpdate_last ha (.inl hp)] at ht
  subst ht
  obtain ⟨hcpg, hframe, -⟩ := currentEnd_keeps (s := s.withSetpoint 0)
  refine ⟨currentEnd_wmn, by rw [hcpg]; rfl, by rw [hcpg]; rfl, hframe, currentEnd_idle hl,
    fun h e hi ho he hhold => ?_⟩
  have houtcome : outcomeAtEnd (s.withSetpoint 0).cpg.abort (s.withSetpoint 0).wmn.worst = (.aborted, a.cause) := by
    rw [show (s.withSetpoint 0).cpg.abort = _ from ha]; rfl
  obtain ⟨-, hplan⟩ := currentEnd_resolved (s := s.withSetpoint 0) hi ho he hhold houtcome
  exact hplan

/-- R132: COOL, or the next pulse with a cool of 0. -/
theorem beginCool_counted {c : Schedule} (hc : s.cpgSchedule = c) : beginCool s.withAnswerCounted =
    if c.cool = 0 then s.withPulse c
    else ({ s with cpg := { s.cpg with phase := .cool, count := 0 } } : State).withSetpoint 0 := by subst hc; rfl

/-- R134: DOWNSLOPE begins with its first update. -/
theorem beginDownslope_counted {c : Schedule} (hc : s.cpgSchedule = c) (h : 0 < c.downslope) :
    beginDownslope s.withAnswerCounted =
      ({ s with cpg := { s.cpg with phase := .downslope, count := 0 } } : State).withSetpoint
        (downslopeSetpoint s.cpg.g c.endPercent (2 * c.downslope) 1) := by
  subst hc; exact if_pos (Nat.mul_pos (by decide) h)

/-- R133: the extension needs an own row with lapse left for cool, pulse, downslope and guard. -/
theorem extends_iff {r : Worst} : s.extends r = true ↔
    r = .low ∧ s.cpgSchedule.retry = 1 ∧ s.cpg.extUsed = false ∧ ∃ row, s.ownRow = some row ∧
      2 * (s.cpgSchedule.cool + s.cpgSchedule.pulse + s.cpgSchedule.downslope + 4) ≤ ceilDiv (2 * row.lapse) 1000 := by
  rw [State.extends, decide_eq_true_eq]
  cases hr : s.ownRow with
  | none =>
    have hz : s.lapseUpdates = 0 := by simp only [State.lapseUpdates, hr]
    simp [hz, Config.guardMs]
  | some row =>
    rw [lapseUpdates_row hr]
    simp [Config.guardMs]

theorem afterPulse_more (r : Worst) (h : s.cpg.pulseIdx < s.cpgSchedule.pulses) :
    afterPulse r s.withAnswerCounted = beginCool s.withAnswerCounted := if_pos h

theorem afterPulse_extends {r : Worst} (h : s.cpg.pulseIdx = s.cpgSchedule.pulses) (he : s.extends r = true) :
    afterPulse r s.withAnswerCounted =
      beginCool ({ s with cpg := { s.cpg with extUsed := true } } : State).withAnswerCounted :=
  (if_neg h.not_lt).trans (if_pos ⟨h, he⟩)

theorem afterPulse_last {r : Worst}
    (h : s.cpgSchedule.pulses < s.cpg.pulseIdx ∨ (s.cpg.pulseIdx = s.cpgSchedule.pulses ∧ ¬s.extends r = true)) :
    afterPulse r s.withAnswerCounted = beginDownslope s.withAnswerCounted := by
  refine (if_neg ?_).trans (if_neg ?_)
  · show ¬s.cpg.pulseIdx < s.cpgSchedule.pulses
    omega
  · rintro ⟨heq, hext⟩
    have heq' : s.cpg.pulseIdx = s.cpgSchedule.pulses := heq
    rcases h with h | ⟨-, hn⟩
    · omega
    · exact hn hext

/-- Settles O58: the judged result decides between the abort path and what follows the pulse. -/
theorem pulseJudgementFollowsTheWindow : Obligations.PulseJudgementFollowsTheWindow := by
  refine ⟨fun m => ⟨fun h0 => ?unjudged, fun hj => ?judged⟩, fun s sp hd hs hlen hover => ?ends⟩
  case unjudged => exact ⟨pulseJudgement_unjudged h0, pulseResistance_zero (if_pos h0)⟩
  case judged =>
    rw [pulseJudgement_judged hj]
    refine ⟨fun h => if_pos h, fun h1 h2 => ?_, fun h1 h2 h3 => ?_, fun h1 h2 h3 => ?_, pulseResistance_judged hj⟩
    · rw [if_neg h1.not_gt, if_pos h2]
    · rw [if_neg h1.not_gt, if_neg h2.not_gt, if_pos h3]
    · rw [if_neg h1.not_gt, if_neg h2.not_gt, if_neg h3.not_gt]
  case ends =>
    intro c g r results counts
    have hc : s.cpgSchedule = c := cpgSchedule_spot hs
    refine ⟨worstOf c.pulses results, worstOf_ok_or_counts c.pulses results,
      fun i x hx => severity_le_worstOf ((List.length_set ..).trans hlen) hx, ?_⟩
    intro u cools pulses goesOn granted
    have due : exec .stageUpdate s = .next (pulseEnd s.withAnswerCounted) := by
      rw [exec_stageUpdate_pulse hd, pulseUpdate_over (by rwa [hc])]
    have judged : judge s = u := by rw [judge, hc]; rfl
    have huc : u.cpgSchedule = c := hc
    refine ⟨fun cause haction hcause => ?aborts, fun hgoes => ?follows⟩
    case aborts =>
      have hres : resultAbort s.cpgSchedule.action r = some cause := by
        rw [hc]; exact resultAbort_of_cause haction hcause
      have aborting (path : AbortPath) : s.withResultAbort cause path = { u with cpg := s.cpgAborting cause path } := by
        rw [State.withResultAbort, judged]
      rw [pulseEnd_aborts hres] at due
      refine ⟨fun hp hl => ?ramp, fun hp => ?cut⟩
      case ramp => rw [due, hp, abortUpdate_resultAbort_ramp hl, aborting]
      case cut =>
        rw [hp, aborting] at due
        have active : s.sgl.link ≠ .fault := by simp [updateDue_active hd]
        exact ⟨_, due, abortUpdate_cut (s := { u with cpg := s.cpgAborting cause .cut }) rfl rfl active rfl⟩
    case follows =>
      have hres : resultAbort s.cpgSchedule.action r = none := by
        rw [hc]; exact resultAbort_of_goesOn hgoes
      have hgrant : u.extends r = true ↔ granted := by rw [extends_iff, huc]; rfl
      rw [pulseEnd_goesOn hres, judged] at due
      refine ⟨fun hmore => ?more, fun hlast hg => ?extension, fun hend hdown => ?last⟩
      case more =>
        rw [due, afterPulse_more (s := u) r (by rwa [huc]), beginCool_counted huc]
      case extension =>
        have hxc : ({ u with cpg := { u.cpg with extUsed := true } } : State).cpgSchedule = c := hc
        rw [due, afterPulse_extends (s := u) (by rwa [huc]) (hgrant.2 hg), beginCool_counted hxc]
      case last =>
        rw [← hgrant] at hend
        rw [due, afterPulse_last (s := u) (by rwa [huc]), beginDownslope_counted huc hdown]; rfl

end Sys2Proof.Machine

/-! ### The answer of every command (log 3) -/

namespace Sys2Proof.Machine

/-- Settles O4: every command is one shared operation on the node, and these are total; the groups are the operations. -/
theorem everyCommandAnswersANextState : Obligations.EveryCommandAnswersANextState := by
  intro c s
  cases c with
  | powerOn => exact ⟨restartNode s, rfl⟩
  | blockRead bytes => exact ⟨takeBlock bytes s, rfl⟩
  | headerLengthRead imageLength recordCount => exact ⟨testLength _ _ s, rfl⟩
  | imageReadComplete bytes => exact ⟨completeRead bytes s, rfl⟩
  | validationEnd => exact ⟨_, exec_validationEnd s⟩
  | idlePoint => exact ⟨_, exec_idlePoint s⟩
  | startBit => exact ⟨_, exec_startBit s⟩
  | bitError heard => exact ⟨_, exec_bitError s heard⟩
  | ownFrameRejected => exact ⟨_, exec_ownFrameRejected s⟩
  | ownFrameCompleted receipt => exact ⟨_, exec_ownFrameCompleted s receipt⟩
  | insertionViolation | frameDiscarded => exact ⟨discardFrame _ s, rfl⟩
  | invalidFrame | ownIdFrame | haltFrame | resumeFrame | bodyFrame | exitFrame | derateFrame | claimFrame
  | releaseFrame => exact ⟨receiveFrame _ s, rfl⟩
  | joinTimerExpiry | rowLapse | claimWaitExpiry | claimLeadReached | holdTimerExpiry | squeezeEnd | holdEnd
  | robotLate | stageUpdate => exact ⟨onTimer _ _ s, rfl⟩
  | sampleFrame bytes => exact ⟨_, exec_sampleFrame bytes s⟩
  | gunClosed | gunOpen | tipDressed | motionKindRefused => exact ⟨writeA _ _ s, rfl⟩
  | announceBody | announceExit | announceDerate | haltZone | resumeZone | abandonBody | rejoin | restart
  | commandKindRefused => exact ⟨writeB _ s, rfl⟩
  | readReport | readRow => exact ⟨dataOut _ _ _ s, rfl⟩
  | readStatus => exact ⟨takeStatus s, rfl⟩
  | setMask | clearFlags | setCursor => exact ⟨dataIn _ _ s, rfl⟩
  | cutShortTransaction bytes => exact ⟨takeCutShort bytes s, rfl⟩

end Sys2Proof.Machine

/-! ### Reports, flags, mask, cursor and status on the robot link (R161, R162, R171 to R177, R192, R193) -/

namespace Sys2Proof.Machine

variable {s : State}

/-! #### What a transaction shifts out (R161, R162) -/

/-- R161: content that ends with the fixed length is shifted out whole. -/
theorem shiftOut_whole {n : Nat} {content : List Byte} (h : (s.portByte :: content).length = n) :
    shiftOut n content s = { s with rlk := { s.rlk with
      out := s.portByte :: content ++ List.replicate s.clockedBeyond 0 } } := by
  rw [shiftOut, padTo_of_length_le h.le, h, Nat.sub_self, List.replicate_zero, List.append_nil]; rfl

/-- R161: without content the port byte is followed by zero bytes. -/
theorem shiftOut_nil {n : Nat} (h : 1 ≤ n) : shiftOut n [] s = s.afterDataIn n := by
  rw [shiftOut, padTo_of_length_le (bs := [s.portByte]) h]; rfl

theorem dataIn_taken {n : Nat} (effect : State → State) (hl : s.zbc.node ≠ .loading) (hn : 1 ≤ n) :
    dataIn n effect s = effect (s.afterDataIn n) := by
  rw [dataIn, if_neg hl, shiftOut_nil hn]

theorem dataIn_loading {n : Nat} (effect : State → State) (hl : s.zbc.node = .loading) (hn : 1 ≤ n) :
    dataIn n effect s = s.afterDataIn n := by
  rw [dataIn, if_pos hl, shiftOut_nil hn]

theorem dataOut_loading {n : Nat} (content : List Byte) (effect : State → State) (hl : s.zbc.node = .loading)
    (hn : 1 ≤ n) : dataOut n content effect s = s.afterDataIn n := by
  rw [dataOut, if_pos hl, shiftOut_nil hn]

/-- R161: the zero bytes of the content and those clocked beyond it are one run. -/
theorem afterDataIn_eq (n : Nat) : s.afterDataIn n = { s with rlk := { s.rlk with
    out := s.portByte :: List.replicate (n - 1 + s.clockedBeyond) 0 } } := by
  rw [State.afterDataIn, List.replicate_append_replicate]

/-- R162, R192: the port byte shows LOADING. -/
theorem portByte_loading (hl : s.zbc.node = .loading) : s.portByte.getLsbD 7 = true := by
  rw [State.portByte, hl]
  cases s.attention <;> decide

/-! #### A LOADING node (R162) -/

/-- Settles O18: in LOADING whatever carries data in or returns data does nothing but shift out. -/
theorem loadingNodeTakesNoTransaction : Obligations.LoadingNodeTakesNoTransaction := by
  intro s c hl hc
  have shifts : ∀ {n : Nat} {t : State}, exec c s = .next t → t = s.afterDataIn n → 2 ≤ n → ∃ n, s.clockedBeyond < n ∧
      exec c s = .next { s with rlk := { s.rlk with out := s.portByte :: List.replicate n 0 } } ∧
      s.portByte.getLsbD 7 = true := fun {n} _ h ht hn =>
    ⟨n - 1 + s.clockedBeyond, by omega, by rw [h, ht, afterDataIn_eq], portByte_loading hl⟩
  have onA : ∀ kind spot, writeA kind spot s = s.afterDataIn 4 := fun _ _ => dataIn_loading _ hl (by decide)
  have onB : ∀ effect, writeB effect s = s.afterDataIn 8 := fun effect => dataIn_loading effect hl (by decide)
  rcases hc with rfl | rfl | rfl | rfl | rfl | rfl | rfl | rfl | ⟨spot, rfl⟩ | ⟨mask, rfl⟩ | ⟨set, rfl⟩ |
    ⟨table, index, rfl⟩ | ⟨kind, spot, rfl⟩ | ⟨kind, fields, rfl⟩ | ⟨serial, style, options, zoneSeq, rfl⟩ |
    ⟨serial, rfl⟩ | ⟨feeder, percent, rfl⟩ | ⟨seconds, rfl⟩
  · exact shifts rfl (dataOut_loading _ _ hl (by decide)) (by decide)
  · exact shifts rfl (dataOut_loading _ _ hl (by decide)) (by decide)
  · exact shifts rfl (onA 2 0) (by decide)
  · exact shifts rfl (onA 3 0) (by decide)
  · exact shifts rfl (onB (takeHeld .resume)) (by decide)
  · exact shifts rfl (onB takeAbandon) (by decide)
  · exact shifts rfl (onB takeRejoin) (by decide)
  · exact shifts rfl (onB takeRestart) (by decide)
  · exact shifts rfl (onA 1 spot.toNat) (by decide)
  · exact shifts rfl (dataIn_loading _ hl (by decide)) (by decide)
  · exact shifts rfl (dataIn_loading _ hl (by decide)) (by decide)
  · exact shifts rfl (dataIn_loading _ hl (by decide)) (by decide)
  · exact shifts rfl (onA kind spot.toNat) (by decide)
  · exact shifts rfl (onB (zoneCommand kind fields)) (by decide)
  · exact shifts rfl (onB (takeHeld (.body serial style options zoneSeq))) (by decide)
  · exact shifts rfl (onB (takeHeld (.exit serial))) (by decide)
  · exact shifts rfl (onB (takeHeld (.derate feeder percent))) (by decide)
  · exact shifts rfl (onB (takeHeld (.halt seconds))) (by decide)

/-! #### Mask, flags and cursor (R174, R175, R177) -/

/-- R177: an index in the row range of the table a code names. -/
theorem cursorAt_inRange {table : Table} {index : Nat} (h : tableFirst table ≤ index ∧ index < tableEnd table) :
    cursorAt (byte (tableCode table)) index = some table := by
  have hcode : (byte (tableCode table)).toNat = tableCode table := by cases table <;> rfl
  rw [cursorAt, hcode, tableOf_tableCode]
  exact if_pos h

theorem cursorAt_outside {code : Byte} {index : Nat}
    (h : ∀ table : Table, tableCode table = code.toNat → ¬(tableFirst table ≤ index ∧ index < tableEnd table)) :
    cursorAt code index = none := by
  unfold cursorAt
  split
  case h_1 => rfl
  case h_2 table ht => exact if_neg (h table (tableCode_of_tableOf ht))

/-- R174: a flag named is clear, any other is as it was. -/
theorem getLsbD_clearNamed (set : BitVec 16) (r : Rlk) (k : Nat) :
    (clearNamed set r).flags.getLsbD k = (r.flags.getLsbD k && !set.getLsbD k) := by
  by_cases hk : k < 16
  · simp [clearNamed, hk]
  · simp [clearNamed, BitVec.getLsbD_of_ge _ k (Nat.not_lt.1 hk)]

/-- Settles O15: each is its one effect on the Robot Link; the range test of R177 decides what SET-CURSOR does. -/
theorem maskFlagsAndCursorAreWritten : Obligations.MaskFlagsAndCursorAreWritten := by
  intro s hl
  have taken : ∀ {n : Nat} (effect : State → State), 1 ≤ n →
      (.next (dataIn n effect s) : Host.Outcome State Fault Refusal) = .next (effect (s.afterDataIn n)) :=
    fun effect hn => congrArg _ (dataIn_taken effect hl hn)
  refine ⟨fun mask => taken _ (by decide), fun set => ⟨_, taken _ (by decide), getLsbD_clearNamed set s.rlk⟩,
    fun table index hfirst hend => ?placed, fun code index h => ?refused⟩
  case placed =>
    refine (taken (placeCursor _ _) (by decide)).trans (congrArg _ ?_)
    rw [placeCursor, cursorAt_inRange ⟨hfirst, hend⟩]; rfl
  case refused =>
    refine (taken (placeCursor _ _) (by decide)).trans (congrArg _ ?_)
    rw [placeCursor, cursorAt_outside h]; rfl

/-! #### Transactions cut short and of unknown kind (R161) -/

theorem incomplete_iff (bytes : List Byte) : incomplete bytes = true ↔ bytes = [] ∨ ∃ kind rest, bytes = kind :: rest ∧
    (kindLength kind = none ∨ ∃ n, kindLength kind = some n ∧ bytes.length < n) := by
  cases bytes with
  | nil => simp [incomplete]
  | cons kind rest => cases hk : kindLength kind <;> simp [incomplete, hk]

/-- R161: one byte is shifted out for each byte sent. -/
theorem partialOut_length (bytes : List Byte) : (s.partialOut bytes).length = bytes.length := by
  cases bytes with
  | nil => rfl
  | cons kind rest => simp [State.partialOut, padTo]; omega

/-- Settles O17: such bytes are `incomplete`, and LOADING decides whether they are refused. -/
theorem cutShortTransactionIsRefused : Obligations.CutShortTransactionIsRefused := by
  intro bytes s h
  have hi : incomplete bytes = true := (incomplete_iff bytes).2 h
  refine ⟨s.partialOut bytes, partialOut_length bytes, congrArg Host.Outcome.next ?_⟩
  rw [takeCutShort, if_pos hi]; rfl

/-! #### Flags raised and the attention line (R171, R173, R175) -/

theorem flagSet_eq_getLsbD (f : Flag) : s.flagSet f = s.rlk.flags.getLsbD (flagBit f) := and_flagMask _ f

theorem flagMask_getLsbD_self (f : Flag) : (flagMask f).getLsbD (flagBit f) = true := by cases f <;> decide

/-- R171, R173: the EVENT finds room in the FIFO. -/
theorem raise_queued (f : Flag) (a0 a1 a2 a3 : Byte) (h : s.rlk.fifo.length < 16) :
    raise f a0 a1 a2 a3 s = { s with rlk := { s.rlk with
      flags := s.rlk.flags ||| flagMask f, counter := (s.rlk.counter + 1) % 256,
      fifo := s.rlk.fifo ++ [⟨s.rlk.counter, .event f a0 a1 a2 a3⟩] } } :=
  congrArg (fun k => { s with rlk := k }) (if_pos h)

/-- R171, R173: the EVENT is dropped from a full FIFO. -/
theorem raise_dropped (f : Flag) (a0 a1 a2 a3 : Byte) (h : ¬s.rlk.fifo.length < 16) :
    raise f a0 a1 a2 a3 s = { s with rlk := { s.rlk with
      flags := s.rlk.flags ||| flagMask f ||| flagMask .reportLost, counter := (s.rlk.counter + 1) % 256 } } :=
  congrArg (fun k => { s with rlk := k }) (if_neg h)

/-- Settles O11: the room in the FIFO decides, and the flag is set on either side. -/
theorem raisingSetsFlagAndQueuesEvent : Obligations.RaisingSetsFlagAndQueuesEvent := by
  intro f a0 a1 a2 a3 s _
  rw [flagSet_eq_getLsbD]
  split
  case isTrue h =>
    rw [raise_queued f a0 a1 a2 a3 h]
    exact ⟨by simp [flagMask_getLsbD_self], rfl⟩
  case isFalse h =>
    rw [raise_dropped f a0 a1 a2 a3 h]
    exact ⟨by simp [flagMask_getLsbD_self], rfl⟩

/-- R175, R192: two sets of flags have a flag in common. -/
theorem and_ne_zero_iff_flag (x y : BitVec 16) :
    x &&& y ≠ 0 ↔ ∃ f : Flag, x.getLsbD (flagBit f) = true ∧ y.getLsbD (flagBit f) = true := by
  constructor
  · intro hne
    by_contra hnone
    refine hne (BitVec.eq_of_getLsbD_eq fun k hk => ?_)
    obtain ⟨f, rfl⟩ := flag_of_bit k hk
    rw [BitVec.getLsbD_and, BitVec.ofNat_eq_ofNat, BitVec.getLsbD_zero, ← Bool.not_eq_true, Bool.and_eq_true]
    exact fun both => hnone ⟨f, both⟩
  · rintro ⟨f, hx, hy⟩ hz
    have hbit := congrArg (·.getLsbD (flagBit f)) hz
    simp [hx, hy] at hbit

/-- Settles O12: every bit of flags and mask is one flag's. -/
theorem attentionFollowsFifoAndMask : Obligations.AttentionFollowsFifoAndMask := by
  intro s
  simp only [flagSet_eq_getLsbD, ← and_ne_zero_iff_flag, State.attention, Bool.or_eq_true, Bool.not_eq_true',
    bne_iff_ne, ne_eq, List.isEmpty_eq_false_iff]

/-! #### The report record (R172, R193) -/

/-- R172: what a READ-REPORT outside LOADING does. -/
theorem takeReport_answered (h : s.zbc.node ≠ .loading) : takeReport s = { s with rlk := { s.rlk with
    fifo := s.rlk.fifo.tail,
    out := s.portByte :: reportRecord s.rlk.fifo.head? ++ List.replicate s.clockedBeyond 0 } } := by
  rw [takeReport, dataOut, if_neg h, shiftOut_whole (by rw [List.length_cons, reportRecord_length])]; rfl

/-- R193: a report that fits its record is filled up with zero bytes. -/
theorem reportRecord_some (n : Nat) {r : Report} (h : (reportContent r).length ≤ 22) :
    reportRecord (some ⟨n, r⟩) = byte (reportCode r) :: byte n :: reportContent r ++
      List.replicate (22 - (reportContent r).length) 0 := by
  rw [reportRecord, padTo_of_length_le (Nat.add_le_add_right h 2)]
  simp only [List.length_cons, Nat.add_assoc, Nat.reduceAdd, Nat.reduceSubDiff]

/-- R193: a REVISIT-START takes five bytes and two for each spot. -/
theorem reportContent_revisitStart_length (serial zoneSeq : Nat) (spots : List Nat) :
    (reportContent (.revisitStart serial zoneSeq spots)).length = 5 + 2 * spots.length := by
  simp [reportContent, bytes2, bytes3]; omega

/-- R193: every report fits its record, a REVISIT-START with its 8 spots at the most. -/
theorem reportContent_length_le {r : Report}
    (h : ∀ serial zoneSeq spots, r = .revisitStart serial zoneSeq spots → spots.length ≤ 8) :
    (reportContent r).length ≤ 22 := by
  cases r with
  | revisitStart serial zoneSeq spots =>
    have hs := h _ _ _ rfl
    rw [reportContent_revisitStart_length]; omega
  | programStart | spotDone | bodyDone | event => simp [reportContent, bytes2, bytes3]

/-- R193: the marks of a SPOT-DONE in one byte. -/
theorem byte_marks (ext early : Bool) :
    byte (bit ext + 2 * bit early) = (if ext then 1 else 0) + (if early then 2 else 0) := by
  cases ext <;> cases early <;> rfl

/-- A mark as one byte. -/
theorem byte_bit (b : Bool) : byte (bit b) = if b then 1 else 0 := by cases b <;> rfl

/-- Settles O13: the record is that of the head report, by the layout of its kind. -/
theorem readReportTakesTheHead : Obligations.ReadReportTakesTheHead := by
  refine ⟨recordCodes_hold, fun s hl => ⟨reportRecord s.rlk.fifo.head?, congrArg _ (takeReport_answered hl),
    fun h => by rw [h]; rfl, fun n report rest h => ?_⟩⟩
  rw [h, List.head?_cons]
  cases report with
  | programStart => exact reportRecord_some n (reportContent_length_le nofun)
  | spotDone serial zoneSeq spotId pass outcome cause res early =>
    dsimp only
    rw [← byte_marks]
    exact reportRecord_some n (reportContent_length_le nofun)
  | revisitStart serial zoneSeq spots =>
    intro hs
    have fits := reportContent_length_le (r := .revisitStart serial zoneSeq spots) (by rintro _ _ _ ⟨⟩; exact hs)
    rw [reportRecord_some n fits, reportContent_revisitStart_length,
      show 22 - (5 + 2 * spots.length) = 17 - 2 * spots.length by omega]
    rfl
  | bodyDone serial zoneSeq style program nowork exited =>
    refine Eq.trans (reportRecord_some n (reportContent_length_le nofun)) ?_
    cases program <;> cases nowork <;> cases exited <;> rfl
  | event => exact reportRecord_some n (reportContent_length_le nofun)

/-! #### The status record (R176, R193) -/

/-- R176: what a READ-STATUS does. -/
theorem takeStatus_answered : takeStatus s = { s with rlk := { s.rlk with
    out := s.portByte :: s.statusRecord ++ List.replicate s.clockedBeyond 0 } } :=
  shiftOut_whole (by rw [List.length_cons, statusRecord_length])

theorem showsSpot_of_shownSpot {spot : Nat} (h : s.shownSpot = spot) : s.showsSpot spot := by
  subst h; exact ⟨rfl, rfl⟩

theorem spotAt_of_entry {i : Nat} {e : PlanEntry} (h : s.ssq.plan[i]? = some e) : s.spotAt i = e.spotId := by
  rw [State.spotAt, h]; rfl

/-- R176: before a spot is accepted the expected spot is shown. -/
theorem shownSpot_awaiting {i : Nat} {e : PlanEntry} (hs : s.ssq.state = .awaitGun) (hi : s.expectedIdx = some i)
    (he : s.ssq.plan[i]? = some e) : s.shownSpot = e.spotId := by
  rw [State.shownSpot, hs, hi, ← spotAt_of_entry he]; rfl

/-- R176: from its acceptance to its end the spot in hand is shown. -/
theorem shownSpot_inHand {h : SpotInHand} {e : PlanEntry}
    (hs : s.ssq.state = .squeeze ∨ s.ssq.state = .firing ∨ s.ssq.state = .hold) (hh : s.ssq.inHand = some h)
    (he : s.ssq.plan[h.planIdx]? = some e) : s.shownSpot = e.spotId := by
  rw [← spotAt_of_entry he, State.shownSpot, hh]
  rcases hs with hs | hs | hs <;> rw [hs] <;> rfl

/-- R176, R192: the kind of the held command. -/
theorem statusRecord_command {b : FrameBody} (h : s.rlk.mailbox = some b) :
    s.statusRecord[16]? = some (byte (commandCode b)) := by
  show some (byte ((s.rlk.mailbox.map commandCode).getD 0)) = _
  rw [h]; rfl

/-- Settles O14: each item is read off the record at its place. -/
theorem readStatusShowsTheNode : Obligations.ReadStatusShowsTheNode := by
  refine ⟨recordCodes_hold, fun s => ⟨congrArg Host.Outcome.next takeStatus_answered, statusRecord_length, rfl, rfl, rfl,
    fun _ => ⟨rfl, rfl⟩, rfl, rfl, rfl, fun _ => rfl, fun hs => showsSpot_of_shownSpot ?idle,
    fun e hs hp he => showsSpot_of_shownSpot (shownSpot_awaiting hs ?main he),
    fun i rest e hs hp hd he => showsSpot_of_shownSpot (shownSpot_awaiting hs ?revisit he),
    fun h e hs hh he => showsSpot_of_shownSpot (shownSpot_inHand hs hh he), rfl, congrArg some (byte_bit _), rfl, rfl,
    congrArg some (byte_bit _), fun hm => ?empty, fun _ _ _ _ hm => statusRecord_command hm,
    fun _ hm => statusRecord_command hm, fun _ _ hm => statusRecord_command hm, fun _ hm => statusRecord_command hm,
    fun hm => statusRecord_command hm, rfl, rfl, rfl, rfl, rfl, rfl⟩⟩
  case idle => rw [State.shownSpot, hs]
  case main => rw [State.expectedIdx, hp]
  case revisit => rw [State.expectedIdx, hp, hd]; rfl
  case empty =>
    show some (byte ((s.rlk.mailbox.map commandCode).getD 0)) = _
    rw [hm]; rfl

end Sys2Proof.Machine

/-! ### The read of the image (R181, R184) -/

namespace Sys2Proof.Machine

variable {s : State}

theorem exec_headerLengthRead (length records : BitVec 16) (s : State) :
    exec (.headerLengthRead length records) s = .next (testLength length.toNat records.toNat s) := rfl
theorem exec_blockRead (bytes : List Byte) (s : State) : exec (.blockRead bytes) s = .next (takeBlock bytes s) := rfl
theorem exec_imageReadComplete (bytes : List Byte) (s : State) :
    exec (.imageReadComplete bytes) s = .next (completeRead bytes s) := rfl

/-- R181: 1024 spot records stay well below 49152 bytes, so the layout length alone keeps the range of the length. -/
theorem lengthHolds_iff {length records : Nat} :
    lengthHolds length records = true ↔ records ≤ 1024 ∧ length = 1537 + 5 * records := by
  rw [lengthHolds, decide_eq_true_iff, layoutLength]
  omega

theorem testLength_holds (hn : s.zbc.node = .loading) (hp : s.iml.phase = .reading) (ht : s.iml.tested = false)
    (hi : s.iml.image = []) {length records : Nat} (h : lengthHolds length records = true) :
    testLength length records s =
      s.modIml fun m => { m with tested := true, length := length, image := bytes2 length ++ bytes2 records } := by
  rw [testLength, if_pos ⟨hn, hp, ht, hi⟩, if_pos h]

theorem testLength_fails (hn : s.zbc.node = .loading) (hp : s.iml.phase = .reading) (ht : s.iml.tested = false)
    (hi : s.iml.image = []) {length records : Nat} (h : ¬lengthHolds length records = true) :
    testLength length records s = endBad .length 0 (s.modIml deselectMemory) := by
  rw [testLength, if_pos ⟨hn, hp, ht, hi⟩, if_neg h]

/-- R184: before the length test there is no length and no image for a bad end to clear. -/
theorem endBad_untested (reason : LoadReason) (item : Nat) (ht : s.iml.tested = false) (hi : s.iml.image = []) :
    endBad reason item s = raise .imageBad (byte (loadReasonCode reason)) (byte item) 0 0 { s with
      zbc := { s.zbc with node := .inert },
      iml := { s.iml with phase := .bad, reason := reason, item := item, length := 0 } } := by
  rw [endBad, ← ht, ← hi]
  rfl

theorem takeBlock_taken (hn : s.zbc.node = .loading) (hp : s.iml.phase = .reading) (ht : s.iml.tested = true)
    {bytes : List Byte} (hb : s.iml.image.length + bytes.length = 256 * (s.iml.blocks + 1))
    (hl : 256 * (s.iml.blocks + 1) ≤ s.iml.length) :
    takeBlock bytes s = s.modIml fun m => { readBytes bytes m with blocks := m.blocks + 1 } := by
  rw [takeBlock, if_pos ⟨hn, hp, ht, hb, hb ▸ hl⟩]

theorem completeRead_ended (hn : s.zbc.node = .loading) (hp : s.iml.phase = .reading) (ht : s.iml.tested = true)
    {bytes : List Byte} (hb : s.iml.image.length + bytes.length = s.iml.length)
    (hl : s.iml.length < 256 * (s.iml.blocks + 1)) :
    completeRead bytes s = s.modIml fun m =>
      { deselectMemory (readBytes bytes m) with blocks := ceilDiv m.length 256, phase := .validating } := by
  rw [completeRead, if_pos ⟨hn, hp, ht, hb, hl⟩]

/-- Settles O59: the outcome of the length test, a block within the length and the last bytes each pick their branch of
the read. -/
theorem imageReadCountsBlocks : Obligations.ImageReadCountsBlocks := by
  refine fun s hn hp => ⟨fun length records ht hi => ⟨fun hf => ?fails, fun hr hl => ?holds⟩,
    fun bytes ht hb hl => ?block, fun bytes ht hb hl => ?ended⟩
  case fails =>
    rw [exec_headerLengthRead, testLength_fails hn hp ht hi (fun h => hf (lengthHolds_iff.1 h)),
      endBad_untested (s := s.modIml deselectMemory) .length 0 ht hi]
    rfl
  case holds =>
    rw [exec_headerLengthRead, testLength_holds hn hp ht hi (lengthHolds_iff.2 ⟨hr, hl⟩)]
    rfl
  case block =>
    rw [exec_blockRead, takeBlock_taken hn hp ht hb hl]
    rfl
  case ended =>
    rw [exec_imageReadComplete, completeRead_ended hn hp ht hb hl]
    rfl

end Sys2Proof.Machine
